-- ==== Sys2Proof/Word.lean ====
section
/-! DEFINITION. The word types of the block (00_scope.md R9, 10_state.md D17 widths). -/

namespace Sys2Proof

/-- A byte of MML text (20_memory.md R60). -/
abbrev Byte := BitVec 8

/-- A 16-bit quantity: a period, a tempo, or a signed PCM sample (20_memory.md R60). -/
abbrev Half := BitVec 16

/-- A 32-bit quantity: a sample counter, or the frame word handed to the sink (20_memory.md R74). -/
abbrev Word := BitVec 32

end Sys2Proof
end

