-- ==== Sys2Proof/Config.lean ====
section
/-! DEFINITION. The parameters of the block: the constants the source fixes (00_scope.md R7), the
parameters the spec leaves open (R8), and the one free value (the contents of a frame-buffer entry
that nothing has written since reset, 10_state.md R45). -/

namespace Sys2Proof

/-- The four channels, "indices fixed at compile time" (00_scope.md R7, 10_state.md R20). -/
inductive ChannelId where
  | ch0 | ch1 | ch2 | ch3
deriving DecidableEq, Repr

/-- One `α` for each of the four channels. -/
structure PerChannel (α : Type) where
  at0 : α
  at1 : α
  at2 : α
  at3 : α
deriving DecidableEq, Repr

/-- The part that belongs to channel `ch`. -/
def PerChannel.get {α : Type} (q : PerChannel α) : ChannelId → α
  | .ch0 => q.at0
  | .ch1 => q.at1
  | .ch2 => q.at2
  | .ch3 => q.at3

/-- `q` with the part of channel `ch` replaced, the other three kept. -/
def PerChannel.set {α : Type} (q : PerChannel α) (ch : ChannelId) (a : α) : PerChannel α :=
  match ch with
  | .ch0 => { q with at0 := a }
  | .ch1 => { q with at1 := a }
  | .ch2 => { q with at2 := a }
  | .ch3 => { q with at3 := a }

/-- The same `α` for every channel. -/
def PerChannel.fill {α : Type} (a : α) : PerChannel α := ⟨a, a, a, a⟩

/-- `MML_MAX`: bytes in one program memory (R7, 20_memory.md R61). -/
def mmlMax : Nat := 512

/-- `BUF_MAX`: entries in one frame buffer (R7, 20_memory.md R72). -/
def bufMax : Nat := 1200

/-- `NOTE_TABLE_SIZE`: entries of `NOTE_PERIOD` (R7). -/
def noteTableSize : Nat := 84

/-- `WT_SIZE`: entries of one wavetable (R7). -/
def wtSize : Nat := 256

/-- `N_WT`: the number of wavetables (R7). -/
def numWavetables : Nat := 4

/-- `WT_THRESHOLD`: the first `tone_no` that selects a wavetable (R7, 43_waveform.md R183). -/
def wtThreshold : Nat := 3

/-- `VOL_STEPS`: entries of `VOL_CURVE` (R7). -/
def volSteps : Nat := 16

/-- `ONSET_DELAY`: the pitch shapes act once `frame_pos` has reached it (R7, 42_modulators.md R165). -/
def onsetDelay : Nat := 8

/-- `BUSY_MASK`: the bits of the sink's status word that mean not ready (R7, 44_mixer_driver.md R207). -/
def busyMask : Nat := 0xC

/-- `LEN_NUM = SPM * 60`, the numerator of the note-length formula (R8, 40_mml_notes.md R110). -/
def lenNum : Nat := 2880000 * 60

/-- `SENTINEL_NO_TONE`, the value of `fr_value` that means a rest (R8, 10_state.md R22). -/
def sentinelNoTone : Half := 0#16

/-- `FULL_SCALE`, the high level of the PWM wave (R8, 43_waveform.md R185). -/
def fullScale : Int := 32767

/-- The open parameters of R8: an argument of the model. They ride in the machine's state because the
fixed interface gives `step` no other argument; no step writes them (log 2). -/
structure Config where
  /-- `N_TICK`, samples generated per channel per tick, `1 <= N_TICK <= BUF_MAX` (R8, D2). -/
  nTick : Nat
  /-- `NOTE_PERIOD[0..83]` (20_memory.md R64). -/
  notePeriod : List Half
  /-- `VOL_CURVE[0..15]`, unsigned 9 bits (20_memory.md R60, R66). -/
  volCurve : List (BitVec 9)
  /-- `WAVETABLE[0..3][0..255]`, signed 16 bits (20_memory.md R67). -/
  wavetable : List (List Half)
  /-- `DEFAULT_MML[0..3]`, the reset content of the program memories (R8, D25). -/
  defaultMml : PerChannel (List Byte)
deriving DecidableEq, Repr

/-- FREE VALUE (log 6). What entry `i` of `BUF[ch]` holds while nothing has written it since the last
reset: "unspecified" (10_state.md R45), "any value" (93_implementation_defined.md U8). It has no body:
nothing can be proved about its value. -/
opaque Config.bufAtReset : ChannelId → Nat → Half

end Sys2Proof
end

