-- ==== Sys2Proof/Machine/Channel.lean ====
section
/-! DEFINITION. The 21 registers of a channel (10_state.md R20 to R41) and their reset values (R53). -/

namespace Sys2Proof.Machine

/-- The register file of one channel (10_state.md R20). -/
structure Channel where
  /-- `mml_pos`, the program counter (R21) -/
  mmlPos : BitVec 10
  /-- `fr_value`, the base period or the sentinel (R22) -/
  frValue : Half
  /-- `fr_tune`, the pitch offset, signed (R23) -/
  frTune : Word
  /-- `fr_counter`, the phase accumulator (R24) -/
  frCounter : Word
  /-- `len`, the note's duration in samples (R25) -/
  len : Word
  /-- `slice_pos`, samples emitted in the note (R26) -/
  slicePos : Word
  /-- `frame_pos`, ticks elapsed in the note (R27) -/
  framePos : Word
  /-- `tempo` (R28) -/
  tempo : Half
  /-- `def_keylen`, the default length denominator (R29) -/
  defKeylen : Half
  /-- `def_len`, samples of a default note (R30) -/
  defLen : Word
  /-- `octave` (R31) -/
  octave : BitVec 3
  /-- `local_vol`, the target volume (R32) -/
  localVol : BitVec 4
  /-- `int_vol`, the ramping volume (R33) -/
  intVol : BitVec 4
  /-- `tone_rate`, the gate in eighths (R34) -/
  toneRate : BitVec 4
  /-- `pwm_rate`, the duty in percent (R35) -/
  pwmRate : BitVec 7
  /-- `env_no`, the envelope shape (R36) -/
  envNo : BitVec 8
  /-- `env_len`, the modulator step in ticks (R37) -/
  envLen : Half
  /-- `tone_no`, the timbre (R38) -/
  toneNo : BitVec 8
  /-- `pitch_no`, the pitch shape (R39) -/
  pitchNo : BitVec 8
  /-- `tune_depth`, the pitch modulation depth (R40) -/
  tuneDepth : Half
  /-- `tie`, the one flag (R41) -/
  tie : Bool
deriving DecidableEq, Repr

/-- The reset values of 10_state.md R53. -/
def Channel.reset : Channel where
  mmlPos := 0#10
  frValue := sentinelNoTone
  frTune := 0#32
  frCounter := 0#32
  len := 0#32
  slicePos := 0#32
  framePos := 0#32
  tempo := 120#16
  defKeylen := 4#16
  defLen := 1440000#32
  octave := 4#3
  localVol := 15#4
  intVol := 15#4
  toneRate := 8#4
  pwmRate := 50#7
  envNo := 0#8
  envLen := 1#16
  toneNo := 0#8
  pitchNo := 0#8
  tuneDepth := 0#16
  tie := false

end Sys2Proof.Machine
end

