-- ==== Sys2Proof/Machine/Memory.lean ====
section
/-! DEFINITION. The memories the block writes: a program memory (20_memory.md R61 to R63) and a frame
buffer (R72), each a list of indexed cells in one canonical form. -/

namespace Sys2Proof.Machine

/-- One program memory `MML[ch]`: the cells that do not hold 0x00, by strictly rising index. A cell not
listed holds 0x00, the fill of 20_memory.md R61. -/
abbrev Memory := List Host.Cell

/-- What a listed-or-not cell of a program memory holds (20_memory.md R61). -/
def Memory.read : Memory → Nat → Byte
  | [], _ => 0x00#8
  | (k, byte) :: rest, i => if k = i then byte else Memory.read rest i

/-- `Fetch(ch, i)` for `i <= 512`: the byte, or the end-of-string code at index 512 (20_memory.md R63). -/
def Memory.fetch (m : Memory) (i : Nat) : Byte := if i < mmlMax then m.read i else 0x00#8

/-- The bytes from index `i` on, `n` of them, each through `Fetch`. -/
def Memory.bytesFrom (m : Memory) (i : Nat) : Nat → List Byte
  | 0 => []
  | n + 1 => m.fetch i :: Memory.bytesFrom m (i + 1) n

/-- The cells that hold `bytes` from index `i` on: the 0x00 bytes are not listed. -/
def Memory.cellsFrom : Nat → List Byte → Memory
  | _, [] => []
  | i, byte :: rest =>
    if byte = 0x00#8 then Memory.cellsFrom (i + 1) rest else (i, byte) :: Memory.cellsFrom (i + 1) rest

/-- A whole-text write: the bytes from index 0, cut to the first 512, and 0x00 up to index 511
(20_memory.md R61, 45_host_interface.md R222). -/
def Memory.load (text : List Byte) : Memory := Memory.cellsFrom 0 (text.take mmlMax)

/-- `m` up to index `i`, then `bytes`, then 0x00 to the end. Not an operation of the block: it only serves
to place a token where the parser fetches next. -/
def Memory.place (m : Memory) (i : Nat) (bytes : List Byte) : Memory :=
  m.filter (fun cell => cell.1 < i) ++ Memory.cellsFrom i (bytes.take (mmlMax - i))

/-- The least index from `i` on, among the next `n`, that holds 0x00, or `i + n`. -/
def Memory.endFrom (m : Memory) (i : Nat) : Nat → Nat
  | 0 => i
  | n + 1 => if m.read i = 0x00#8 then i else Memory.endFrom m (i + 1) n

/-- `len(mml)`: the least index in 0..511 that holds 0x00, or 512 (20_memory.md R62). -/
def Memory.textLength (m : Memory) : Nat := m.endFrom 0 mmlMax

/-- Whether cell indices rise strictly, from `i` on, below `bound`. -/
def risingFrom {α : Type} (bound : Nat) : Nat → List (Nat × α) → Bool
  | _, [] => true
  | i, (k, _) :: rest => decide (i ≤ k) && decide (k < bound) && risingFrom bound (k + 1) rest

/-- The canonical form of a program memory: indices strictly rising below 512, no listed 0x00. -/
def Memory.wf (m : Memory) : Bool := risingFrom mmlMax 0 m && m.all (fun cell => cell.2 != 0x00#8)

/-- One frame buffer `BUF[ch]`: the entries written since reset, by strictly rising index. -/
abbrev SampleBuf := List (Nat × Half)

/-- The sample written at an index since reset, if one was. -/
def SampleBuf.written : SampleBuf → Nat → Option Half
  | [], _ => none
  | (k, v) :: rest, i => if k = i then some v else SampleBuf.written rest i

/-- `BUF[ch][i]`: the sample written, or the free value of an entry that nothing has written since reset
(10_state.md R45, log 6). -/
def SampleBuf.read (ch : ChannelId) (buf : SampleBuf) (i : Nat) : Half :=
  match buf.written i with
  | some v => v
  | none => Config.bufAtReset ch i

/-- `BUF[ch][i] <- v` (20_memory.md R72). -/
def SampleBuf.write : SampleBuf → Nat → Half → SampleBuf
  | [], i, v => [(i, v)]
  | (k, w) :: rest, i, v =>
    if k < i then (k, w) :: SampleBuf.write rest i v
    else if k = i then (i, v) :: rest
    else (i, v) :: (k, w) :: rest

/-- The canonical form of a frame buffer: indices strictly rising below 1200. -/
def SampleBuf.wf (buf : SampleBuf) : Bool := risingFrom bufMax 0 buf

end Sys2Proof.Machine
end

