-- ==== Sys2Proof/Syntax.lean ====
section
/-! DEFINITION. The instructions: the 24 MML tokens of 30_encoding.md R97, one constructor for each row
of spec/opcode_table.json. A constructor keeps the whole spelling of its token (the letter's case, the
accidental's character, the run of digits with its leading zeros, the dot), so that a token knows its
own length in bytes (R93) and no bit of the text is dropped (log 9). -/

namespace Sys2Proof

/-- The case of an opcode letter: bit 5 of its byte (30_encoding.md R91). -/
inductive LetterCase where
  | upper | lower
deriving DecidableEq, Repr

/-- The optional accidental of a note (30_encoding.md R92, R94): `#` and `+` are two spellings of sharp. -/
inductive Accidental where
  /-- no accidental byte -/
  | natural
  /-- the byte 0x23 -/
  | sharp
  /-- the byte 0x2B -/
  | plus
  /-- the byte 0x2D -/
  | flat
deriving DecidableEq, Repr

/-- The rows of the opcode map (30_encoding.md R97) by name. -/
inductive Opcode where
  | c | d | e | f | g | a | b | r | tie | t | l | o | octUp | octDown | v | x | q | s | m | tone | p | h | eos | skip
deriving DecidableEq, Repr

/-- The instructions. `k` is the case of the opcode letter, `acc` the accidental, `digits` the decimal
digits of the numeric suffix, most significant first, `dot` whether a dot follows. -/
inductive Instr where
  /-- `C` (40_mml_notes.md R115) -/
  | c (k : LetterCase) (acc : Accidental) (digits : List Nat) (dot : Bool)
  /-- `D` (R116) -/
  | d (k : LetterCase) (acc : Accidental) (digits : List Nat) (dot : Bool)
  /-- `E` (R117) -/
  | e (k : LetterCase) (acc : Accidental) (digits : List Nat) (dot : Bool)
  /-- `F` (R118) -/
  | f (k : LetterCase) (acc : Accidental) (digits : List Nat) (dot : Bool)
  /-- `G` (R119) -/
  | g (k : LetterCase) (acc : Accidental) (digits : List Nat) (dot : Bool)
  /-- `A` (R113) -/
  | a (k : LetterCase) (acc : Accidental) (digits : List Nat) (dot : Bool)
  /-- `B` (R121) -/
  | b (k : LetterCase) (acc : Accidental) (digits : List Nat) (dot : Bool)
  /-- `R`, the rest (R120) -/
  | r (k : LetterCase) (digits : List Nat) (dot : Bool)
  /-- `&`, the tie mark (R122) -/
  | tie
  /-- `T`, tempo (41_mml_commands.md R134) -/
  | t (k : LetterCase) (digits : List Nat)
  /-- `L`, default length (R135) -/
  | l (k : LetterCase) (digits : List Nat)
  /-- `O`, octave (R136) -/
  | o (k : LetterCase) (digits : List Nat)
  /-- `>` (R137) -/
  | octUp
  /-- `<` (R138) -/
  | octDown
  /-- `V`, volume (R139) -/
  | v (k : LetterCase) (digits : List Nat)
  /-- `X`, PWM duty (R140) -/
  | x (k : LetterCase) (digits : List Nat)
  /-- `Q`, gate length (R141) -/
  | q (k : LetterCase) (digits : List Nat)
  /-- `S`, envelope shape (R142) -/
  | s (k : LetterCase) (digits : List Nat)
  /-- `M`, envelope step length (R143) -/
  | m (k : LetterCase) (digits : List Nat)
  /-- `@`, timbre; no case (R144) -/
  | tone (digits : List Nat)
  /-- `P`, pitch shape (R145) -/
  | p (k : LetterCase) (digits : List Nat)
  /-- `H`, pitch modulation depth (R146) -/
  | h (k : LetterCase) (digits : List Nat)
  /-- the end of the string: the byte 0x00, or index 512 (R131) -/
  | eos
  /-- any other byte (R147) -/
  | skip (byte : Byte)
deriving DecidableEq, Repr

/-- The row of the opcode map an instruction belongs to. -/
def Instr.opcode : Instr → Opcode
  | .c _ _ _ _ => .c
  | .d _ _ _ _ => .d
  | .e _ _ _ _ => .e
  | .f _ _ _ _ => .f
  | .g _ _ _ _ => .g
  | .a _ _ _ _ => .a
  | .b _ _ _ _ => .b
  | .r _ _ _ => .r
  | .tie => .tie
  | .t _ _ => .t
  | .l _ _ => .l
  | .o _ _ => .o
  | .octUp => .octUp
  | .octDown => .octDown
  | .v _ _ => .v
  | .x _ _ => .x
  | .q _ _ => .q
  | .s _ _ => .s
  | .m _ _ => .m
  | .tone _ => .tone
  | .p _ _ => .p
  | .h _ _ => .h
  | .eos => .eos
  | .skip _ => .skip

end Sys2Proof
end

