-- ==== Sys2Proof/WellFormed.lean ====
section
/-! DEFINITION. Which instructions have an encoding: every digit is a decimal digit (30_encoding.md R95),
a skip token's byte belongs to no other token (R98), and the token fits a program memory (R93). -/

namespace Sys2Proof

/-- Each element of a numeric suffix is one decimal digit, a byte 0x30 to 0x39 (30_encoding.md R92, R95). -/
def digitsOk (digits : List Nat) : Bool := digits.all (· < 10)

/-- How many bytes an accidental and a dot add to a token (30_encoding.md R93, R94, R96). -/
def marksOf (acc : Accidental) (dot : Bool) : Nat :=
  (if acc = .natural then 0 else 1) + (if dot then 1 else 0)

/-- The bytes of the SKIP class as 30_encoding.md R98 lists them: all but 0x00, the 18 letters
`A B C D E F G H L M O P Q R S T V X` in both cases, and `&`, `>`, `<`, `@`. -/
def isSkipByte (byte : Byte) : Bool :=
  let letters : List Nat := [0x41, 0x42, 0x43, 0x44, 0x45, 0x46, 0x47, 0x48, 0x4C, 0x4D, 0x4F, 0x50, 0x51, 0x52, 0x53, 0x54, 0x56, 0x58]
  let n := byte.toNat
  !(n == 0 || letters.contains n || letters.contains (n - 0x20) && 0x60 < n || n == 0x26 || n == 0x3E || n == 0x3C || n == 0x40)

/-- A numeric suffix is well formed, and a token of one opcode byte, `marks` further bytes and these digits
fits a program memory of `MML_MAX` bytes. -/
def suffixOk (marks : Nat) (digits : List Nat) : Bool := digitsOk digits && decide (marks + digits.length < mmlMax)

/-- The instructions that have an encoding. -/
def Instr.wellFormed : Instr → Bool
  | .c _ acc digits dot => suffixOk (marksOf acc dot) digits
  | .d _ acc digits dot => suffixOk (marksOf acc dot) digits
  | .e _ acc digits dot => suffixOk (marksOf acc dot) digits
  | .f _ acc digits dot => suffixOk (marksOf acc dot) digits
  | .g _ acc digits dot => suffixOk (marksOf acc dot) digits
  | .a _ acc digits dot => suffixOk (marksOf acc dot) digits
  | .b _ acc digits dot => suffixOk (marksOf acc dot) digits
  | .r _ digits dot => suffixOk (marksOf .natural dot) digits
  | .tie => true
  | .t _ digits => suffixOk 0 digits
  | .l _ digits => suffixOk 0 digits
  | .o _ digits => suffixOk 0 digits
  | .octUp => true
  | .octDown => true
  | .v _ digits => suffixOk 0 digits
  | .x _ digits => suffixOk 0 digits
  | .q _ digits => suffixOk 0 digits
  | .s _ digits => suffixOk 0 digits
  | .m _ digits => suffixOk 0 digits
  | .tone digits => suffixOk 0 digits
  | .p _ digits => suffixOk 0 digits
  | .h _ digits => suffixOk 0 digits
  | .eos => true
  | .skip byte => isSkipByte byte

end Sys2Proof
end

