-- ==== Sys2Proof/Decode.lean ====
section
/-! DEFINITION. The decoder and the encoder of MML text (30_encoding.md). "Every byte value 0x00 to 0xFF is
the opcode byte of exactly one token, so the decoder is total" (R97): it rejects nothing, by name or
otherwise. -/

namespace Sys2Proof

/-- A row of the opcode map: selected when `(byte and mask) = pattern`, the two given as numbers (30_encoding.md
R97, R101). -/
structure OpcodeRow where
  op : Opcode
  pattern : Nat
  mask : Nat
deriving DecidableEq, Repr

/-- The opcode map of 30_encoding.md R97, in its order; SKIP is what no row selects. -/
def opcodeMap : List OpcodeRow :=
  [⟨.c, 0x43, 0xDF⟩, ⟨.d, 0x44, 0xDF⟩, ⟨.e, 0x45, 0xDF⟩, ⟨.f, 0x46, 0xDF⟩, ⟨.g, 0x47, 0xDF⟩,
   ⟨.a, 0x41, 0xDF⟩, ⟨.b, 0x42, 0xDF⟩, ⟨.r, 0x52, 0xDF⟩, ⟨.tie, 0x26, 0xFF⟩, ⟨.t, 0x54, 0xDF⟩,
   ⟨.l, 0x4C, 0xDF⟩, ⟨.o, 0x4F, 0xDF⟩, ⟨.octUp, 0x3E, 0xFF⟩, ⟨.octDown, 0x3C, 0xFF⟩, ⟨.v, 0x56, 0xDF⟩,
   ⟨.x, 0x58, 0xDF⟩, ⟨.q, 0x51, 0xDF⟩, ⟨.s, 0x53, 0xDF⟩, ⟨.m, 0x4D, 0xDF⟩, ⟨.tone, 0x40, 0xFF⟩,
   ⟨.p, 0x50, 0xDF⟩, ⟨.h, 0x48, 0xDF⟩, ⟨.eos, 0x00, 0xFF⟩]

/-- Whether a row of the opcode map selects a byte. -/
def OpcodeRow.selects (row : OpcodeRow) (byte : Byte) : Bool := Nat.beq (byte.toNat &&& row.mask) row.pattern

/-- The token whose opcode byte `byte` is (30_encoding.md R97). -/
def classify (byte : Byte) : Opcode :=
  match opcodeMap.find? (·.selects byte) with
  | some row => row.op
  | none => .skip

/-- Case folding of an opcode byte (30_encoding.md R91). -/
def foldCase (byte : Byte) : Byte :=
  let u := byte &&& 0xDF#8
  if 0x41 ≤ u.toNat ∧ u.toNat ≤ 0x5A then u else byte

/-- The case of an opcode letter: bit 5 (30_encoding.md R91). -/
def letterCase (byte : Byte) : LetterCase := if byte &&& 0x20#8 = 0#8 then .upper else .lower

/-- Whether a byte is a decimal digit, 0x30 to 0x39 (30_encoding.md R92). -/
def isDigitByte (byte : Byte) : Bool := decide (0x30 ≤ byte.toNat) && decide (byte.toNat ≤ 0x39)

/-- The optional accidental: at most one byte is taken (30_encoding.md R94). -/
def takeAccidental : List Byte → Accidental × List Byte
  | [] => (.natural, [])
  | byte :: rest =>
    if byte = 0x23#8 then (.sharp, rest)
    else if byte = 0x2B#8 then (.plus, rest)
    else if byte = 0x2D#8 then (.flat, rest)
    else (.natural, byte :: rest)

/-- The longest run of digits, possibly empty (30_encoding.md R92, R95). -/
def takeDigits : List Byte → List Nat × List Byte
  | [] => ([], [])
  | byte :: rest =>
    if isDigitByte byte then
      let run := takeDigits rest
      ((byte.toNat - 0x30) :: run.1, run.2)
    else ([], byte :: rest)

/-- The optional dot: at most one byte is taken (30_encoding.md R96). -/
def takeDot : List Byte → Bool × List Byte
  | [] => (false, [])
  | byte :: rest => if byte = 0x2E#8 then (true, rest) else (false, byte :: rest)

/-- The suffix of a format N token: accidental, digits, dot, taken greedily in this order (R92). -/
def decodeNote (mk : Accidental → List Nat → Bool → Instr) (rest : List Byte) : Instr × List Byte :=
  let acc := takeAccidental rest
  let num := takeDigits acc.2
  let dot := takeDot num.2
  (mk acc.1 num.1 dot.1, dot.2)

/-- The suffix of a format L token: digits, dot (R92). -/
def decodeRest (mk : List Nat → Bool → Instr) (rest : List Byte) : Instr × List Byte :=
  let num := takeDigits rest
  let dot := takeDot num.2
  (mk num.1 dot.1, dot.2)

/-- The suffix of a format K token: digits (R92). -/
def decodeNum (mk : List Nat → Instr) (rest : List Byte) : Instr × List Byte :=
  let num := takeDigits rest
  (mk num.1, num.2)

/-- The decoder: the token at the head of the text, and the text after it. The end of the text is the
end-of-string token (30_encoding.md R92, R97; 20_memory.md R63). -/
def decode : List Byte → Instr × List Byte
  | [] => (.eos, [])
  | byte :: rest =>
    match classify byte with
    | .c => decodeNote (.c (letterCase byte)) rest
    | .d => decodeNote (.d (letterCase byte)) rest
    | .e => decodeNote (.e (letterCase byte)) rest
    | .f => decodeNote (.f (letterCase byte)) rest
    | .g => decodeNote (.g (letterCase byte)) rest
    | .a => decodeNote (.a (letterCase byte)) rest
    | .b => decodeNote (.b (letterCase byte)) rest
    | .r => decodeRest (.r (letterCase byte)) rest
    | .tie => (.tie, rest)
    | .t => decodeNum (.t (letterCase byte)) rest
    | .l => decodeNum (.l (letterCase byte)) rest
    | .o => decodeNum (.o (letterCase byte)) rest
    | .octUp => (.octUp, rest)
    | .octDown => (.octDown, rest)
    | .v => decodeNum (.v (letterCase byte)) rest
    | .x => decodeNum (.x (letterCase byte)) rest
    | .q => decodeNum (.q (letterCase byte)) rest
    | .s => decodeNum (.s (letterCase byte)) rest
    | .m => decodeNum (.m (letterCase byte)) rest
    | .tone => decodeNum .tone rest
    | .p => decodeNum (.p (letterCase byte)) rest
    | .h => decodeNum (.h (letterCase byte)) rest
    | .eos => (.eos, rest)
    | .skip => (.skip byte, rest)

/-- The byte of an opcode letter in the given case; `upper` is its upper-case byte (30_encoding.md R91). -/
def letterByte (upper : Byte) : LetterCase → Byte
  | .upper => upper
  | .lower => upper ||| 0x20#8

/-- The bytes of an accidental (30_encoding.md R94). -/
def encodeAccidental : Accidental → List Byte
  | .natural => []
  | .sharp => [0x23#8]
  | .plus => [0x2B#8]
  | .flat => [0x2D#8]

/-- The bytes of a run of digits (30_encoding.md R95). -/
def encodeDigits (digits : List Nat) : List Byte := digits.map fun n => BitVec.ofNat 8 (0x30 + n)

/-- The byte of a dot (30_encoding.md R96). -/
def encodeDot (dot : Bool) : List Byte := if dot then [0x2E#8] else []

/-- The bytes of a format N token (30_encoding.md R92). -/
def encodeNote (upper : Byte) (k : LetterCase) (acc : Accidental) (digits : List Nat) (dot : Bool) : List Byte :=
  letterByte upper k :: (encodeAccidental acc ++ (encodeDigits digits ++ encodeDot dot))

/-- The bytes of a format K token with a letter (30_encoding.md R92). -/
def encodeNum (upper : Byte) (k : LetterCase) (digits : List Nat) : List Byte := letterByte upper k :: encodeDigits digits

/-- The encoder: the bytes of an instruction, from the tables of 30_encoding.md R92 and R97. -/
def encode : Instr → List Byte
  | .c k acc digits dot => encodeNote 0x43#8 k acc digits dot
  | .d k acc digits dot => encodeNote 0x44#8 k acc digits dot
  | .e k acc digits dot => encodeNote 0x45#8 k acc digits dot
  | .f k acc digits dot => encodeNote 0x46#8 k acc digits dot
  | .g k acc digits dot => encodeNote 0x47#8 k acc digits dot
  | .a k acc digits dot => encodeNote 0x41#8 k acc digits dot
  | .b k acc digits dot => encodeNote 0x42#8 k acc digits dot
  | .r k digits dot => letterByte 0x52#8 k :: (encodeDigits digits ++ encodeDot dot)
  | .tie => [0x26#8]
  | .t k digits => encodeNum 0x54#8 k digits
  | .l k digits => encodeNum 0x4C#8 k digits
  | .o k digits => encodeNum 0x4F#8 k digits
  | .octUp => [0x3E#8]
  | .octDown => [0x3C#8]
  | .v k digits => encodeNum 0x56#8 k digits
  | .x k digits => encodeNum 0x58#8 k digits
  | .q k digits => encodeNum 0x51#8 k digits
  | .s k digits => encodeNum 0x53#8 k digits
  | .m k digits => encodeNum 0x4D#8 k digits
  | .tone digits => 0x40#8 :: encodeDigits digits
  | .p k digits => encodeNum 0x50#8 k digits
  | .h k digits => encodeNum 0x48#8 k digits
  | .eos => [0x00#8]
  | .skip byte => [byte]

/-- Bytes an accidental takes (30_encoding.md R94). -/
def accidentalSize : Accidental → Nat
  | .natural => 0
  | .sharp => 1
  | .plus => 1
  | .flat => 1

/-- Bytes a dot takes (30_encoding.md R96). -/
def dotSize (dot : Bool) : Nat := if dot then 1 else 0

/-- Length in bytes of a format N token (30_encoding.md R93). -/
def noteSize (acc : Accidental) (digits : List Nat) (dot : Bool) : Nat :=
  1 + accidentalSize acc + digits.length + dotSize dot

/-- Length in bytes of a format L token (30_encoding.md R93). -/
def restSize (digits : List Nat) (dot : Bool) : Nat := 1 + digits.length + dotSize dot

/-- Length in bytes of a format K token (30_encoding.md R93). -/
def numSize (digits : List Nat) : Nat := 1 + digits.length

/-- The first `n` bytes of a number, the least significant byte first: MML is fetched one byte at a time
in ascending index (20_memory.md R74). -/
def bytesOf : Nat → Nat → List Byte
  | 0, _ => []
  | n + 1, w => BitVec.ofNat 8 (w % 256) :: bytesOf n (w / 256)

/-- The instruction the decoder reads from the `nbits` bits of `w`, laid out as bytes from the lowest
index; above them the text has ended. -/
def decodeTableWord (nbits w : Nat) : Option Instr := some (decode (bytesOf (nbits / 8) w)).1

end Sys2Proof
end

