-- ==== Sys2Proof/Machine/Rom.lean ====
section
/-! DEFINITION. The ROM contents of the default configuration (20_memory.md R64 to R71), the lookups, and
what makes a configuration legal (93_implementation_defined.md U11, U12). -/

namespace Sys2Proof.Machine

/-- A table of signed numbers as 16-bit words. -/
def toHalves (values : List Int) : List Half := values.map (BitVec.ofInt 16)

/-- The default periods, one row for each stored octave 0 to 6 (20_memory.md R65). -/
def defaultNotePeriod : List Half := toHalves <|
  [1468, 1385, 1308, 1234, 1165, 1100, 1038, 980, 925, 873, 824, 778] ++
  [734, 693, 654, 617, 582, 550, 519, 490, 462, 436, 412, 389] ++
  [367, 346, 327, 309, 291, 275, 259, 245, 231, 218, 206, 194] ++
  [183, 173, 163, 154, 146, 137, 130, 122, 116, 109, 103, 97] ++
  [92, 87, 82, 77, 73, 69, 65, 61, 58, 55, 51, 49] ++
  [46, 43, 41, 39, 36, 34, 32, 31, 29, 27, 26, 24] ++
  [23, 22, 20, 19, 18, 17, 16, 15, 14, 14, 13, 12]

/-- The default volume curve, the square law (20_memory.md R66). -/
def defaultVolCurve : List (BitVec 9) :=
  [0#9, 1#9, 5#9, 10#9, 18#9, 28#9, 41#9, 56#9, 73#9, 92#9, 114#9, 138#9, 164#9, 192#9, 223#9, 256#9]

/-- Entry `i` of the default triangle table (20_memory.md R68). -/
def triangleAt (i : Nat) : Int :=
  if i < 64 then 511 * i else if i < 192 then 511 * (128 - (i : Int)) else 511 * ((i : Int) - 256)

/-- The first half of the default sine table (20_memory.md R69). -/
def sineFirstHalf : List Int :=
  [0, 804, 1608, 2410, 3212, 4011, 4808, 5602, 6393, 7179, 7962, 8739, 9512, 10278, 11039, 11793] ++
  [12539, 13279, 14010, 14732, 15446, 16151, 16846, 17530, 18204, 18868, 19519, 20159, 20787, 21403, 22005, 22594] ++
  [23170, 23731, 24279, 24811, 25329, 25832, 26319, 26790, 27245, 27683, 28105, 28510, 28898, 29268, 29621, 29956] ++
  [30273, 30571, 30852, 31113, 31356, 31580, 31785, 31971, 32137, 32285, 32412, 32521, 32609, 32678, 32728, 32757] ++
  [32767, 32757, 32728, 32678, 32609, 32521, 32412, 32285, 32137, 31971, 31785, 31580, 31356, 31113, 30852, 30571] ++
  [30273, 29956, 29621, 29268, 28898, 28510, 28105, 27683, 27245, 26790, 26319, 25832, 25329, 24811, 24279, 23731] ++
  [23170, 22594, 22005, 21403, 20787, 20159, 19519, 18868, 18204, 17530, 16846, 16151, 15446, 14732, 14010, 13279] ++
  [12539, 11793, 11039, 10278, 9512, 8739, 7962, 7179, 6393, 5602, 4808, 4011, 3212, 2410, 1608, 804]

/-- Entry `i` of the default saw table (20_memory.md R70). -/
def sawAt (i : Nat) : Int := 256 * ((i : Int) - 128)

/-- The default noise table (20_memory.md R71). -/
def noiseTable : List Int :=
  [-7568, 28984, 14492, 7246, 3623, -19693, -4727, -15676, 24930, 12465, -21416, 22060, 11030, 5515, -16699, -5278] ++
  [30129, -28968, 18284, 9142, 4571, -17171, -5514, 30011, -29027, -3250, 31143, -30509, -3991, -13260, 26138, 13069] ++
  [-21114, 22211, -24735, -1104, 32216, 16108, 8054, 4027, -19491, -4626, 30455, -28805, -3139, -12834, 26351, -30857] ++
  [-2117, -12323, -11282, 27127, -32517, -2947, -12738, 26399, -30833, -2105, -12317, -11279, -8712, 28412, 14206, 7103] ++
  [-17953, -5905, -16265, -11205, -8675, -9458, 28039, -32061, -2719, -12624, 26456, 13228, 6614, 3307, -19851, -4806] ++
  [30365, -28850, 18343, -26669, -23, -13324, 26106, 13053, -21122, 22207, -24737, -1105, -13865, -12053, -9099, -9670] ++
  [27933, -32114, 16711, -27485, -431, -13528, 26004, 13002, 6501, -18254, 23641, -26068, 19734, 9867, -22715, -6238] ++
  [29649, -29208, 18164, 9082, 4541, -17186, 24175, -25801, -1637, -14131, -12186, 26675, -32743, -3060, 31238, 15619] ++
  [-21887, -7872, 28832, 14416, 7208, 3604, 1802, 901, -19006, 23265, -26256, 19640, 9820, 4910, 2455, -20277] ++
  [-5019, -15822, 24857, -31604, 16966, 8483, -23407, -6584, 29476, 14738, 7369, -17820, 23858, 11929, -23732, 20902] ++
  [10451, -24471, -7116, 29210, 14605, -22394, 21571, -25055, -1264, 32136, 16068, 8034, 4017, -19496, 23020, 11510] ++
  [5755, -16579, -5218, 30159, -28953, -3213, -12871, -11556, 26990, 13495, -20901, -7379, -14954, 25291, -31387, -2382] ++
  [31577, -30292, 17622, 8811, -23243, -6502, 29517, -29274, 18131, -26775, -76, 32730, 16365, -21514, 22011, -24835] ++
  [-1154, 32191, -29985, -3729, -13129, -11685, -8915, -9578, 27979, -32091, -2734, 31401, -30380, 17578, 8789, -23254] ++
  [21141, -25270, 20133, -27822, 18857, -28460, 18538, 9269, -23014, 21261, -25210, 20163, -27807, -592, 32472, 16236] ++
  [8118, 4059, -19475, -4618, 30459, -28803, -3138, 31199, -30481, -3977, -13253, -11747, -8946, 28295, -31933, -2655]

/-- The four default wavetables: triangle, sine, saw, noise (20_memory.md R67 to R71). The second half of
the sine is the first half with its sign changed. -/
def defaultWavetable : List (List Half) :=
  [toHalves ((List.range wtSize).map triangleAt),
   toHalves (sineFirstHalf ++ sineFirstHalf.map (fun v => -v)),
   toHalves ((List.range wtSize).map sawAt),
   toHalves noiseTable]

/-- The spec's default configuration: 800 samples per tick (D2), the default fills, and the one-byte text
`r` on every channel (D25) (00_scope.md R8). -/
def defaultConfig : Config where
  nTick := 800
  notePeriod := defaultNotePeriod
  volCurve := defaultVolCurve
  wavetable := defaultWavetable
  defaultMml := PerChannel.fill [0x72#8]

/-- `NOTE_PERIOD[i]` (20_memory.md R64). -/
def notePeriodAt (cfg : Config) (i : Nat) : Half := cfg.notePeriod.getD i 0#16

/-- `VOL_CURVE[v]` (20_memory.md R66). -/
def volCurveAt (cfg : Config) (v : BitVec 4) : Nat := (cfg.volCurve.getD v.toNat 0#9).toNat

/-- `WAVETABLE[k][i]`, signed (20_memory.md R67). -/
def wavetableAt (cfg : Config) (k i : Nat) : Int := ((cfg.wavetable.getD k []).getD i 0#16).toInt

/-- Whether a byte is the opcode byte of a note letter or of the rest (30_encoding.md R97). -/
def isPlayableByte (byte : Byte) : Bool :=
  match classify byte with
  | .c => true
  | .d => true
  | .e => true
  | .f => true
  | .g => true
  | .a => true
  | .b => true
  | .r => true
  | _ => false

/-- Whether a text holds a note letter or a rest before its end (70_reset_and_hazards.md R276). -/
def hasPlayable (text : List Byte) : Bool := (text.takeWhile (fun byte => byte != 0x00#8)).any isPlayableByte

/-- Whether a list of curve entries is non-decreasing (20_memory.md R66). -/
def nonDecreasing : List (BitVec 9) → Bool
  | [] => true
  | [_] => true
  | v :: w :: rest => decide (v.toNat ≤ w.toNat) && nonDecreasing (w :: rest)

/-- A legal default text: at most 512 bytes, with a note or a rest (U12). -/
def textLegal (text : List Byte) : Bool := decide (text.length ≤ mmlMax) && hasPlayable text

/-- A legal configuration: what 20_memory.md R64, R66, R67 and 00_scope.md R8 require of the open
parameters (93_implementation_defined.md U11, U12). -/
def configLegal (cfg : Config) : Bool :=
  decide (1 ≤ cfg.nTick) && decide (cfg.nTick ≤ bufMax)
  && decide (cfg.notePeriod.length = noteTableSize) && cfg.notePeriod.all (fun v => v != sentinelNoTone)
  && decide (cfg.volCurve.length = volSteps) && decide (cfg.volCurve.head? = some 0#9) && nonDecreasing cfg.volCurve
  && cfg.volCurve.all (fun v => decide (v.toNat ≤ 256))
  && decide (cfg.wavetable.length = numWavetables) && cfg.wavetable.all (fun t => decide (t.length = wtSize))
  && textLegal (cfg.defaultMml.get .ch0) && textLegal (cfg.defaultMml.get .ch1)
  && textLegal (cfg.defaultMml.get .ch2) && textLegal (cfg.defaultMml.get .ch3)

end Sys2Proof.Machine
end

