-- ==== Sys2Proof/Machine/State.lean ====
section
/-! DEFINITION. The state of the machine, the reasons a step can stop, and the state after reset
(10_state.md). INVENTORY.md lists every field with its rule. -/

namespace Sys2Proof.Machine

/-- The host's transactions (45_host_interface.md R221). The channel index has four values, so a load of a
channel outside 0..3 is not a transaction (R222, U7). -/
inductive Transaction where
  /-- R220 -/
  | reset
  /-- R222 -/
  | loadMml (ch : ChannelId) (text : List Byte)
  /-- R223 -/
  | setVolume (v : Nat)
  /-- R224 -/
  | getVolume
  /-- R225 -/
  | setSkip (n : Word)
  /-- R226, 44_mixer_driver.md R200 -/
  | tick
deriving DecidableEq, Repr

/-- Where the engine stands in `TICK` (44_mixer_driver.md R200). -/
inductive Phase where
  /-- between transactions -/
  | idle
  /-- step 3, before a channel's samples: R202 -/
  | prologue
  /-- step 3, before a sample step: R203 -/
  | sample
  /-- inside `Parse`, before a token is fetched: 41_mml_commands.md R130 -/
  | parse
  /-- step 4, before a busy query: R207 -/
  | mix
deriving DecidableEq, Repr

/-- Why a step stops with a fault. The block itself has no fault outcome (60_exceptions.md R240); these two
stand for an index outside the spec's spaces, which no state reachable from reset holds (log 7). -/
inductive Fault where
  /-- Raised by the parser's fetch when `mml_pos` holds 513 to 1023: `Fetch` is defined for 0 to 512 only
  (20_memory.md R63). Safe: the model stops where the spec says nothing. -/
  | mmlIndexOutOfRange
  /-- Raised by a sample step or a mix step whose index is 1200 or more: `BUF` has 1200 entries
  (20_memory.md R72). Safe: the model stops where the spec says nothing. -/
  | bufIndexOutOfRange
deriving DecidableEq, Repr

/-- Why a step is refused. -/
inductive Refusal where
  /-- Raised by `exec` for an instruction that has no meaning yet; none is left. Safe. -/
  | notModelled (mnemonic : String)
  /-- Raised when a transaction is taken in a configuration the spec calls not legal
  (93_implementation_defined.md U11, U12: "refuse"). Safe. -/
  | illegalConfiguration
deriving DecidableEq, Repr

/-- The state of the machine. -/
structure State where
  /-- the configuration: the open parameters of 00_scope.md R8; no step writes it (log 2) -/
  cfg : Config
  /-- the four channels' registers (10_state.md R20) -/
  channels : PerChannel Channel
  /-- the four program memories (20_memory.md R61) -/
  mml : PerChannel Memory
  /-- the four frame buffers (20_memory.md R72) -/
  buf : PerChannel SampleBuf
  /-- `skip_counter` (10_state.md R42) -/
  skipCounter : Word
  /-- `master_vol` (10_state.md R43) -/
  masterVol : BitVec 4
  /-- `wt_ready` (10_state.md R48) -/
  wtReady : Bool
  /-- where in `TICK` the engine stands (44_mixer_driver.md R200, log 1) -/
  phase : Phase
  /-- the channel being processed: the loop variable `ch` of R200 -/
  chan : ChannelId
  /-- the sample being processed: the loop variable `i` of R200 -/
  idx : Nat
  /-- the transactions the host is going to issue, next first (log 3) -/
  hostQueue : List Transaction
  /-- the status words the sink is going to answer, next first (44_mixer_driver.md R207, log 4) -/
  sinkStatus : List Nat
  /-- the frame words handed to the sink, oldest first (44_mixer_driver.md R206, log 5) -/
  sent : List Word
  /-- the values `GET_VOLUME` returned, oldest first (45_host_interface.md R224, log 5) -/
  replies : List (BitVec 4)
deriving DecidableEq, Repr

/-- The block of configuration `cfg` after `RESET`, with nothing pending and nothing observed: the table of
10_state.md R53. -/
def State.resetOf (cfg : Config) : State where
  cfg := cfg
  channels := PerChannel.fill Channel.reset
  mml := ⟨Memory.load (cfg.defaultMml.get .ch0), Memory.load (cfg.defaultMml.get .ch1),
          Memory.load (cfg.defaultMml.get .ch2), Memory.load (cfg.defaultMml.get .ch3)⟩
  buf := PerChannel.fill []
  skipCounter := 0#32
  masterVol := 15#4
  wtReady := false
  phase := .idle
  chan := .ch0
  idx := 0
  hostQueue := []
  sinkStatus := []
  sent := []
  replies := []

/-- The machine right after reset, in the spec's default configuration (10_state.md R53, 00_scope.md R8). -/
def State.reset : State := State.resetOf defaultConfig

end Sys2Proof.Machine
end

