-- ==== Sys2Proof/Machine/Ops.lean ====
section
/-! DEFINITION. The named operations over the state: a channel's registers, its memories, the saturating
arithmetic of 00_scope.md R11, and the engine's place in the tick (44_mixer_driver.md R200). The block takes
no exception and returns from none (60_exceptions.md R240, R246, R247), so there is no such operation. -/

namespace Sys2Proof.Machine

/-- `sat32(v) = min(v, 4,294,967,295)` (00_scope.md R11). -/
def sat32 (v : Nat) : Word := BitVec.ofNat 32 (min v 4294967295)

/-- `sats32(v) = max(-2,147,483,647, min(v, 2,147,483,647))` (00_scope.md R11). -/
def sats32 (v : Int) : Word := BitVec.ofInt 32 (max (-2147483647) (min v 2147483647))

/-- `clamp(v, lo, hi) = max(lo, min(v, hi))` (00_scope.md R11). -/
def clamp (v lo hi : Nat) : Nat := max lo (min v hi)

/-- The arithmetic right shift `floor(v / 2^n)` (00_scope.md R11). -/
def asr (v : Int) (n : Nat) : Int := v / 2 ^ n

/-- The registers of the channel being processed. -/
def State.cur (s : State) : Channel := s.channels.get s.chan

/-- `s` with the registers of the channel being processed replaced. -/
def State.setCur (s : State) (c : Channel) : State := { s with channels := s.channels.set s.chan c }

/-- `MML[ch][i]` (00_scope.md R10). -/
def State.readMml (s : State) (ch : ChannelId) (i : Nat) : Byte := (s.mml.get ch).read i

/-- `BUF[ch][i]` (00_scope.md R10). -/
def State.readBuf (s : State) (ch : ChannelId) (i : Nat) : Half := SampleBuf.read ch (s.buf.get ch) i

/-- `BUF[ch][i] <- v` (00_scope.md R10). -/
def State.writeBuf (s : State) (ch : ChannelId) (i : Nat) (v : Half) : State :=
  { s with buf := s.buf.set ch ((s.buf.get ch).write i v) }

/-- `mml_pos` moved past a token of `n` bytes (41_mml_commands.md R132). -/
def Channel.advance (c : Channel) (n : Nat) : Channel := { c with mmlPos := c.mmlPos + BitVec.ofNat 10 n }

/-- The channel processed after `ch`, if one is (44_mixer_driver.md R200: 0, 1, 2, 3). -/
def nextChannel : ChannelId → Option ChannelId
  | .ch0 => some .ch1
  | .ch1 => some .ch2
  | .ch2 => some .ch3
  | .ch3 => none

/-- The place in the tick after one whole sample step: the next sample of the channel, the next channel's
prologue, or the mix (44_mixer_driver.md R200, R203). -/
def State.nextSample (s : State) : State :=
  if s.idx + 1 < s.cfg.nTick then { s with phase := .sample, idx := s.idx + 1 }
  else match nextChannel s.chan with
    | some ch => { s with phase := .prologue, chan := ch, idx := 0 }
    | none => { s with phase := .mix, chan := .ch0, idx := 0 }

/-- The place in the tick after one frame has been sent: the next frame, or the end of the tick
(44_mixer_driver.md R200, R208). -/
def State.nextFrame (s : State) : State :=
  if s.idx + 1 < s.cfg.nTick then { s with idx := s.idx + 1 }
  else { s with phase := .idle, chan := .ch0, idx := 0 }

end Sys2Proof.Machine
end

