-- ==== Sys2Proof/Machine/Operands.lean ====
section
/-! DEFINITION. The operands of the tokens: the numeric suffix (30_encoding.md R95), the length (R96), the
note-length function (40_mml_notes.md R110), the note index (R111, R112), and the value each command stores
(41_mml_commands.md R133). An absent number is `none`. -/

namespace Sys2Proof.Machine

/-- One digit of `ParseNum`: `min(n * 10 + digit, 65535)` (30_encoding.md R95). -/
def numStep (n digit : Nat) : Nat := min (n * 10 + digit) 65535

/-- `ParseNum`: `none` where no digit is present, else the number, saturated at 65535 (30_encoding.md R95). -/
def parseNum (digits : List Nat) : Option Nat :=
  match digits with
  | [] => none
  | _ :: _ => some (digits.foldl numStep 0)

/-- `Dur(T, L) = ((LEN_NUM / T) * 4) / L`, each division truncating (40_mml_notes.md R110). -/
def dur (tempo denominator : Nat) : Nat := lenNum / tempo * 4 / denominator

/-- The length without the dot: `Dur(tempo, n)` for a number other than 0, else `def_len` (30_encoding.md R96). -/
def plainLength (c : Channel) (digits : List Nat) : Nat :=
  match parseNum digits with
  | some n => if n = 0 then c.defLen.toNat else dur c.tempo.toNat n
  | none => c.defLen.toNat

/-- `Length(ch)`: the duration in samples, one and a half times as long with a dot (30_encoding.md R96). -/
def lengthOperand (c : Channel) (digits : List Nat) (dot : Bool) : Word :=
  let plain := plainLength c digits
  if dot then sat32 (plain + plain / 2) else BitVec.ofNat 32 plain

/-- What an accidental adds to the note index (30_encoding.md R94). -/
def accidentalValue : Accidental → Int
  | .natural => 0
  | .sharp => 1
  | .plus => 1
  | .flat => -1

/-- `idx = s + acc + octave * 12`, signed (40_mml_notes.md R112). -/
def noteIndex (scale : Nat) (acc : Accidental) (octave : BitVec 3) : Int :=
  (scale : Int) + accidentalValue acc + (octave.toNat : Int) * 12

/-- The period a note stores: the table entry, or the sentinel where the index is out of range
(40_mml_notes.md R112). -/
def notePeriodOf (cfg : Config) (idx : Int) : Half :=
  if 0 ≤ idx ∧ idx < 84 then notePeriodAt cfg idx.toNat else sentinelNoTone

/-- The value `t` stores (41_mml_commands.md R134). -/
def tempoOperand : Option Nat → Half
  | some n => if 1 ≤ n then BitVec.ofNat 16 n else 120#16
  | none => 120#16

/-- The value `l` stores (41_mml_commands.md R135). -/
def keylenOperand : Option Nat → Half
  | some n => if 1 ≤ n then BitVec.ofNat 16 n else 4#16
  | none => 4#16

/-- The value `o` stores: `clamp(n - 1, 0, 7)`, and 4 where absent (41_mml_commands.md R136). The difference
of natural numbers is 0 where `n = 0`, which is what the clamp gives. -/
def octaveOperand : Option Nat → BitVec 3
  | some n => BitVec.ofNat 3 (clamp (n - 1) 0 7)
  | none => 4#3

/-- The value `v` stores (41_mml_commands.md R139). -/
def volumeOperand : Option Nat → BitVec 4
  | some n => BitVec.ofNat 4 (min n 15)
  | none => 15#4

/-- The value `x` stores (41_mml_commands.md R140). -/
def pwmOperand : Option Nat → BitVec 7
  | some n => BitVec.ofNat 7 (clamp n 1 99)
  | none => 50#7

/-- The value `q` stores (41_mml_commands.md R141). -/
def gateOperand : Option Nat → BitVec 4
  | some n => BitVec.ofNat 4 (clamp n 1 8)
  | none => 8#4

/-- The value `s`, `@` and `p` store: at most 255, and 0 where absent (41_mml_commands.md R142, R144, R145). -/
def selectorOperand : Option Nat → BitVec 8
  | some n => BitVec.ofNat 8 (min n 255)
  | none => 0#8

/-- The value `m` stores (41_mml_commands.md R143). -/
def envLenOperand : Option Nat → Half
  | some n => BitVec.ofNat 16 (max n 1)
  | none => 1#16

/-- The value `h` stores (41_mml_commands.md R146). -/
def depthOperand : Option Nat → Half
  | some n => BitVec.ofNat 16 n
  | none => 0#16

end Sys2Proof.Machine
end

