-- ==== Sys2Proof/Machine/Flags.lean ====
section
/-! DEFINITION. The one flag of the block, `tie` (10_state.md R41): set by the tie mark, read and cleared by
the next note or rest. There are no condition codes. -/

namespace Sys2Proof.Machine

/-- `ch.tie <- 1` (40_mml_notes.md R122). -/
def Channel.setTie (c : Channel) : Channel := { c with tie := true }

/-- The tied half of `StartOrTie`: the duration is added to `len`, the flag is cleared (40_mml_notes.md R114). -/
def Channel.bindTie (c : Channel) (duration : Word) : Channel :=
  { c with len := sat32 (c.len.toNat + duration.toNat), tie := false }

/-- The fresh half of `StartOrTie` (40_mml_notes.md R114). -/
def Channel.startNote (c : Channel) (duration : Word) : Channel :=
  { c with len := duration, slicePos := 0#32, framePos := 0#32, frCounter := 0#32, frTune := 0#32, intVol := c.localVol }

/-- `StartOrTie(ch, dur)` (40_mml_notes.md R114). -/
def Channel.startOrTie (c : Channel) (duration : Word) : Channel :=
  if c.tie then c.bindTie duration else c.startNote duration

end Sys2Proof.Machine
end

