-- ==== Sys2Proof/Machine/Commands.lean ====
section
/-! DEFINITION. The command tokens (41_mml_commands.md R133 to R146). A command writes its register and moves
`mml_pos` past itself; the parser run goes on, so the engine's place does not change. -/

namespace Sys2Proof.Machine

/-- `T`: tempo (41_mml_commands.md R134): `def_len` is computed again from the new tempo. -/
def execT (digits : List Nat) (s : State) : Host.Outcome State Fault Refusal :=
  let tempo := tempoOperand (parseNum digits)
  let c := s.cur.advance (numSize digits)
  .next (s.setCur { c with tempo := tempo, defLen := BitVec.ofNat 32 (dur tempo.toNat c.defKeylen.toNat) })

/-- `L`: default length (41_mml_commands.md R135): `def_len` is computed again from the new denominator. -/
def execL (digits : List Nat) (s : State) : Host.Outcome State Fault Refusal :=
  let keylen := keylenOperand (parseNum digits)
  let c := s.cur.advance (numSize digits)
  .next (s.setCur { c with defKeylen := keylen, defLen := BitVec.ofNat 32 (dur c.tempo.toNat keylen.toNat) })

/-- `O`: octave (41_mml_commands.md R136). -/
def execO (digits : List Nat) (s : State) : Host.Outcome State Fault Refusal :=
  .next (s.setCur { s.cur.advance (numSize digits) with octave := octaveOperand (parseNum digits) })

/-- `>` (41_mml_commands.md R137). -/
def execOctUp (s : State) : Host.Outcome State Fault Refusal :=
  .next (s.setCur { s.cur.advance 1 with octave := BitVec.ofNat 3 (min (s.cur.octave.toNat + 1) 7) })

/-- `<` (41_mml_commands.md R138). The difference of natural numbers is `max(octave - 1, 0)`. -/
def execOctDown (s : State) : Host.Outcome State Fault Refusal :=
  .next (s.setCur { s.cur.advance 1 with octave := BitVec.ofNat 3 (s.cur.octave.toNat - 1) })

/-- `V`: volume; `int_vol` is not written (41_mml_commands.md R139). -/
def execV (digits : List Nat) (s : State) : Host.Outcome State Fault Refusal :=
  .next (s.setCur { s.cur.advance (numSize digits) with localVol := volumeOperand (parseNum digits) })

/-- `X`: PWM duty (41_mml_commands.md R140). -/
def execX (digits : List Nat) (s : State) : Host.Outcome State Fault Refusal :=
  .next (s.setCur { s.cur.advance (numSize digits) with pwmRate := pwmOperand (parseNum digits) })

/-- `Q`: gate length (41_mml_commands.md R141). -/
def execQ (digits : List Nat) (s : State) : Host.Outcome State Fault Refusal :=
  .next (s.setCur { s.cur.advance (numSize digits) with toneRate := gateOperand (parseNum digits) })

/-- `S`: envelope shape (41_mml_commands.md R142). -/
def execS (digits : List Nat) (s : State) : Host.Outcome State Fault Refusal :=
  .next (s.setCur { s.cur.advance (numSize digits) with envNo := selectorOperand (parseNum digits) })

/-- `M`: envelope step length (41_mml_commands.md R143). -/
def execM (digits : List Nat) (s : State) : Host.Outcome State Fault Refusal :=
  .next (s.setCur { s.cur.advance (numSize digits) with envLen := envLenOperand (parseNum digits) })

/-- `@`: timbre (41_mml_commands.md R144). -/
def execTone (digits : List Nat) (s : State) : Host.Outcome State Fault Refusal :=
  .next (s.setCur { s.cur.advance (numSize digits) with toneNo := selectorOperand (parseNum digits) })

/-- `P`: pitch shape (41_mml_commands.md R145). -/
def execP (digits : List Nat) (s : State) : Host.Outcome State Fault Refusal :=
  .next (s.setCur { s.cur.advance (numSize digits) with pitchNo := selectorOperand (parseNum digits) })

/-- `H`: pitch modulation depth (41_mml_commands.md R146). -/
def execH (digits : List Nat) (s : State) : Host.Outcome State Fault Refusal :=
  .next (s.setCur { s.cur.advance (numSize digits) with tuneDepth := depthOperand (parseNum digits) })

end Sys2Proof.Machine
end

