-- ==== Sys2Proof/Machine/Control.lean ====
section
/-! DEFINITION. The end of the string and the skip token (41_mml_commands.md R131, R147). -/

namespace Sys2Proof.Machine

/-- `EOS`: the one control transfer of the block, to index 0. Nothing else changes and the parser run goes on
(41_mml_commands.md R131). -/
def execEos (s : State) : Host.Outcome State Fault Refusal :=
  .next (s.setCur { s.cur with mmlPos := 0#10 })

/-- `SKIP`: one byte, no effect (41_mml_commands.md R147). -/
def execSkip (s : State) : Host.Outcome State Fault Refusal :=
  .next (s.setCur (s.cur.advance 1))

end Sys2Proof.Machine
end

