-- ==== Sys2Proof/Machine/Notes.lean ====
section
/-! DEFINITION. The note, rest and tie tokens (40_mml_notes.md). A note or rest ends the parser run, so the
engine goes on with the next sample step (41_mml_commands.md R130, 44_mixer_driver.md R203). -/

namespace Sys2Proof.Machine

/-- `NoteToken(ch, s)` on the registers (40_mml_notes.md R112): the pitch before the tie test. -/
def Channel.note (cfg : Config) (c : Channel) (scale : Nat) (acc : Accidental) (digits : List Nat) (dot : Bool) : Channel :=
  let duration := lengthOperand c digits dot
  let moved := c.advance (noteSize acc digits dot)
  Channel.startOrTie { moved with frValue := notePeriodOf cfg (noteIndex scale acc c.octave) } duration

/-- The rest token on the registers (40_mml_notes.md R120). -/
def Channel.rest (c : Channel) (digits : List Nat) (dot : Bool) : Channel :=
  let duration := lengthOperand c digits dot
  let moved := c.advance (restSize digits dot)
  Channel.startOrTie { moved with frValue := sentinelNoTone } duration

/-- A note token: the registers, and the end of the parser run (40_mml_notes.md R112). -/
def noteToken (scale : Nat) (acc : Accidental) (digits : List Nat) (dot : Bool) (s : State) : State :=
  (s.setCur (s.cur.note s.cfg scale acc digits dot)).nextSample

/-- `C`: scale position 0 (40_mml_notes.md R115, R111). -/
def execC (acc : Accidental) (digits : List Nat) (dot : Bool) (s : State) : Host.Outcome State Fault Refusal :=
  .next (noteToken 0 acc digits dot s)

/-- `D`: scale position 2 (40_mml_notes.md R116, R111). -/
def execD (acc : Accidental) (digits : List Nat) (dot : Bool) (s : State) : Host.Outcome State Fault Refusal :=
  .next (noteToken 2 acc digits dot s)

/-- `E`: scale position 4 (40_mml_notes.md R117, R111). -/
def execE (acc : Accidental) (digits : List Nat) (dot : Bool) (s : State) : Host.Outcome State Fault Refusal :=
  .next (noteToken 4 acc digits dot s)

/-- `F`: scale position 5 (40_mml_notes.md R118, R111). -/
def execF (acc : Accidental) (digits : List Nat) (dot : Bool) (s : State) : Host.Outcome State Fault Refusal :=
  .next (noteToken 5 acc digits dot s)

/-- `G`: scale position 7 (40_mml_notes.md R119, R111). -/
def execG (acc : Accidental) (digits : List Nat) (dot : Bool) (s : State) : Host.Outcome State Fault Refusal :=
  .next (noteToken 7 acc digits dot s)

/-- `A`: scale position 9 (40_mml_notes.md R113, R111). -/
def execA (acc : Accidental) (digits : List Nat) (dot : Bool) (s : State) : Host.Outcome State Fault Refusal :=
  .next (noteToken 9 acc digits dot s)

/-- `B`: scale position 11 (40_mml_notes.md R121, R111). -/
def execB (acc : Accidental) (digits : List Nat) (dot : Bool) (s : State) : Host.Outcome State Fault Refusal :=
  .next (noteToken 11 acc digits dot s)

/-- `R` (40_mml_notes.md R120). -/
def execR (digits : List Nat) (dot : Bool) (s : State) : Host.Outcome State Fault Refusal :=
  .next (s.setCur (s.cur.rest digits dot)).nextSample

/-- `&` (40_mml_notes.md R122). The parser run goes on. -/
def execTie (s : State) : Host.Outcome State Fault Refusal :=
  .next (s.setCur (s.cur.advance 1).setTie)

end Sys2Proof.Machine
end

