-- ==== Sys2Proof/Machine/Dispatch.lean ====
section
/-! DEFINITION. The dispatch: one meaning for each token. -/

namespace Sys2Proof.Machine

def exec (i : Instr) (s : State) : Host.Outcome State Fault Refusal :=
  match i with
  | .c _ acc digits dot => Sys2Proof.Machine.execC acc digits dot s
  | .d _ acc digits dot => Sys2Proof.Machine.execD acc digits dot s
  | .e _ acc digits dot => Sys2Proof.Machine.execE acc digits dot s
  | .f _ acc digits dot => Sys2Proof.Machine.execF acc digits dot s
  | .g _ acc digits dot => Sys2Proof.Machine.execG acc digits dot s
  | .a _ acc digits dot => Sys2Proof.Machine.execA acc digits dot s
  | .b _ acc digits dot => Sys2Proof.Machine.execB acc digits dot s
  | .r _ digits dot => Sys2Proof.Machine.execR digits dot s
  | .tie => Sys2Proof.Machine.execTie s
  | .t _ digits => Sys2Proof.Machine.execT digits s
  | .l _ digits => Sys2Proof.Machine.execL digits s
  | .o _ digits => Sys2Proof.Machine.execO digits s
  | .octUp => Sys2Proof.Machine.execOctUp s
  | .octDown => Sys2Proof.Machine.execOctDown s
  | .v _ digits => Sys2Proof.Machine.execV digits s
  | .x _ digits => Sys2Proof.Machine.execX digits s
  | .q _ digits => Sys2Proof.Machine.execQ digits s
  | .s _ digits => Sys2Proof.Machine.execS digits s
  | .m _ digits => Sys2Proof.Machine.execM digits s
  | .tone digits => Sys2Proof.Machine.execTone digits s
  | .p _ digits => Sys2Proof.Machine.execP digits s
  | .h _ digits => Sys2Proof.Machine.execH digits s
  | .eos => Sys2Proof.Machine.execEos s
  | .skip _ => Sys2Proof.Machine.execSkip s

end Sys2Proof.Machine
end

