-- ==== Sys2Proof/Machine/Fetch.lean ====
section
/-! DEFINITION. The parser's fetch: the token at `mml_pos` in the channel's own program memory
(41_mml_commands.md R130, 20_memory.md R63). -/

namespace Sys2Proof.Machine

/-- The text from the channel's `mml_pos` to index 511 (20_memory.md R63). -/
def State.textAhead (s : State) : List Byte :=
  (s.mml.get s.chan).bytesFrom s.cur.mmlPos.toNat (mmlMax - s.cur.mmlPos.toNat)

/-- The token at `mml_pos`, where `Fetch` is defined there: 0 to 512 (20_memory.md R63). -/
def State.fetchToken (s : State) : Option Instr :=
  if s.cur.mmlPos.toNat ≤ mmlMax then some (decode s.textAhead).1 else none

/-- `s` inside `Parse` with the bytes of `w` where the parser fetches next, and the text ended after them. -/
def State.placeToken (s : State) (bytes : List Byte) : State :=
  { s with mml := s.mml.set s.chan ((s.mml.get s.chan).place s.cur.mmlPos.toNat bytes), phase := .parse }

end Sys2Proof.Machine
end

