-- ==== Sys2Proof/Machine/Modulators.lean ====
section
/-! DEFINITION. The envelope and the pitch modulator, run once per channel per tick on the incremented
`frame_pos` (42_modulators.md R160 to R170). -/

namespace Sys2Proof.Machine

/-- Envelope shape 1: toward `(3 * local_vol) / 4` by 1 (42_modulators.md R161). -/
def envShape1 (c : Channel) : Channel :=
  if c.intVol.toNat > 3 * c.localVol.toNat / 4 then { c with intVol := BitVec.ofNat 4 (c.intVol.toNat - 1) } else c

/-- Envelope shape 2: toward `local_vol / 2` by 2, floored at 0 (42_modulators.md R162). The difference of
natural numbers is `max(int_vol - 2, 0)`. -/
def envShape2 (c : Channel) : Channel :=
  if c.intVol.toNat > c.localVol.toNat / 2 then { c with intVol := BitVec.ofNat 4 (c.intVol.toNat - 2) } else c

/-- Envelope shape 3: by 1 every `env_len` ticks toward 0 (42_modulators.md R163). -/
def envShape3 (c : Channel) : Channel :=
  if c.framePos.toNat % c.envLen.toNat = 0 ∧ c.intVol.toNat > 0 then { c with intVol := BitVec.ofNat 4 (c.intVol.toNat - 1) }
  else c

/-- `Envelope(ch)` (42_modulators.md R160, R164). -/
def envelope (c : Channel) : Channel :=
  if c.framePos.toNat > 0 then
    match c.envNo.toNat with
    | 1 => envShape1 c
    | 2 => envShape2 c
    | 3 => envShape3 c
    | _ => c
  else c

/-- Pitch shape 1, vibrato: plus while `frame_pos / env_len` is even, minus while it is odd (42_modulators.md R166). -/
def pitchShape1 (c : Channel) : Channel :=
  if c.framePos.toNat / c.envLen.toNat % 2 = 0 then { c with frTune := BitVec.ofInt 32 c.tuneDepth.toNat }
  else { c with frTune := BitVec.ofInt 32 (-(c.tuneDepth.toNat : Int)) }

/-- Pitch shape 2, drum pitch-up (42_modulators.md R167). -/
def pitchShape2 (c : Channel) : Channel :=
  if c.framePos.toNat % c.envLen.toNat = 0 then { c with frTune := sats32 (c.frTune.toInt + c.tuneDepth.toNat) } else c

/-- Pitch shape 3, sweep (42_modulators.md R168). -/
def pitchShape3 (c : Channel) : Channel :=
  if c.framePos.toNat % c.envLen.toNat = 0 then { c with frTune := sats32 (c.frTune.toInt - c.tuneDepth.toNat) } else c

/-- `Pitch(ch)` (42_modulators.md R165, R169). -/
def pitch (c : Channel) : Channel :=
  if c.framePos.toNat ≥ onsetDelay then
    match c.pitchNo.toNat with
    | 1 => pitchShape1 c
    | 2 => pitchShape2 c
    | 3 => pitchShape3 c
    | _ => c
  else c

/-- The prologue of a channel's tick on its registers: `frame_pos` up by one, saturating, then the envelope,
then the pitch (44_mixer_driver.md R200, R202; 60_exceptions.md R245). -/
def modulate (c : Channel) : Channel := pitch (envelope { c with framePos := sat32 (c.framePos.toNat + 1) })

end Sys2Proof.Machine
end

