-- ==== Sys2Proof/Machine/Waveform.lean ====
section
/-! DEFINITION. The waveform generator and the volume scaler (43_waveform.md). -/

namespace Sys2Proof.Machine

/-- The effective period `P = fr_value + fr_tune`, signed (43_waveform.md R181). -/
def effectivePeriod (c : Channel) : Int := (c.frValue.toNat : Int) + c.frTune.toInt

/-- `tone_dur = (len * tone_rate) / 8`, truncating (43_waveform.md R184). -/
def toneDur (c : Channel) : Nat := c.len.toNat * c.toneRate.toNat / 8

/-- The note gate (43_waveform.md R184). -/
def gateOpen (c : Channel) : Bool := decide (c.slicePos.toNat ≤ toneDur c)

/-- `pwm_thr = (P * (100 - pwm_rate)) / 100`, truncating (43_waveform.md R185). -/
def pwmThreshold (c : Channel) (period : Int) : Int := period * (100 - (c.pwmRate.toNat : Int)) / 100

/-- `Pwm(ch, P)` at the count `count` of the phase accumulator (43_waveform.md R185). -/
def pwmSample (c : Channel) (period : Int) (count : Nat) : Int :=
  if gateOpen c = true ∧ (count : Int) > pwmThreshold c period then fullScale else 0

/-- The wavetable index `(256 * fr_counter) / P`, truncating (43_waveform.md R186). -/
def tableIndex (period : Int) (count : Nat) : Nat := (256 * (count : Int) / period).toNat

/-- `Table(ch, P)` (43_waveform.md R186). -/
def tableSample (cfg : Config) (c : Channel) (period : Int) (count : Nat) : Int :=
  wavetableAt cfg (c.toneNo.toNat - wtThreshold) (tableIndex period count)

/-- The raw sample at a count, by timbre (43_waveform.md R180, R183, R187). -/
def rawSample (cfg : Config) (c : Channel) (period : Int) (count : Nat) : Int :=
  if c.toneNo.toNat < wtThreshold then pwmSample c period count
  else if c.toneNo.toNat ≤ 6 then tableSample cfg c period count
  else 0

/-- The count of the phase accumulator that a sample uses: wrapped before use (43_waveform.md R182). -/
def phaseCount (c : Channel) (period : Int) : Nat := if (c.frCounter.toNat : Int) ≥ period then 0 else c.frCounter.toNat

/-- `Wave(ch)`: the raw sample and the new phase accumulator (43_waveform.md R180 to R182). -/
def wave (cfg : Config) (c : Channel) : Int × Word :=
  let period := effectivePeriod c
  if period < 1 then (0, 0#32)
  else
    let count := phaseCount c period
    (rawSample cfg c period count, BitVec.ofNat 32 (count + 1))

/-- `Scale(ch, w)`: the channel's volume first, then the master volume, each with its own shift
(43_waveform.md R190). -/
def scale (cfg : Config) (intVol masterVol : BitVec 4) (w : Int) : Int :=
  let s1 := asr (w * volCurveAt cfg intVol) 8
  asr (s1 * volCurveAt cfg masterVol) 8

end Sys2Proof.Machine
end

