-- ==== Sys2Proof/Machine/Driver.lean ====
section
/-! DEFINITION. The tick procedure, the mixer and the sink handshake (44_mixer_driver.md). -/

namespace Sys2Proof.Machine

/-- Steps 1 and 2 of `TICK`: `wt_ready` is set, even in a tick that is skipped; a positive skip counter is
decremented and the tick ends; else the first channel's prologue comes next (44_mixer_driver.md R200, R201, R209). -/
def beginTick (s : State) : State :=
  if s.skipCounter.toNat > 0 then
    { s with wtReady := true, skipCounter := BitVec.ofNat 32 (s.skipCounter.toNat - 1) }
  else { s with wtReady := true, phase := .prologue, chan := .ch0, idx := 0 }

/-- Step 3, the prologue of the channel being processed (44_mixer_driver.md R202). -/
def prologueStep (s : State) : State := { s.setCur (modulate s.cur) with phase := .sample, idx := 0 }

/-- The sample the channel being processed puts into its buffer, and its phase accumulator after it: 0 and
unchanged during a rest (44_mixer_driver.md R203, 43_waveform.md R188). -/
def nextSampleOf (cfg : Config) (masterVol : BitVec 4) (c : Channel) : Int × Word :=
  if c.frValue = sentinelNoTone then (0, c.frCounter)
  else
    let generated := wave cfg c
    (scale cfg c.intVol masterVol generated.1, generated.2)

/-- The registers after the first two parts of a sample step: the phase accumulator, and `slice_pos` up by
one, saturating (44_mixer_driver.md R203). -/
def sampled (cfg : Config) (masterVol : BitVec 4) (c : Channel) : Channel :=
  { c with frCounter := (nextSampleOf cfg masterVol c).2, slicePos := sat32 (c.slicePos.toNat + 1) }

/-- Step 3, one sample step up to the end-of-note test: the buffer entry, `slice_pos`, and then the parser
if the note has ended, else the next sample (44_mixer_driver.md R203). -/
def sampleStep (s : State) : Host.Outcome State Fault Refusal :=
  if s.idx < bufMax then
    let c := sampled s.cfg s.masterVol s.cur
    let filled := (s.setCur c).writeBuf s.chan s.idx (BitVec.ofInt 16 (nextSampleOf s.cfg s.masterVol s.cur).1)
    .next (if c.slicePos.toNat ≥ c.len.toNat then { filled with phase := .parse } else filled.nextSample)
  else .fault .bufIndexOutOfRange

/-- The mixer's exact sum of the four buffer entries (44_mixer_driver.md R204). -/
def mixSum (s : State) (i : Nat) : Int :=
  (s.readBuf .ch0 i).toInt + (s.readBuf .ch1 i).toInt + (s.readBuf .ch2 i).toInt + (s.readBuf .ch3 i).toInt

/-- The frame word of a mixed sample `m`: left in bits 31 to 16, right in bits 15 to 0, both `m[15:0]`
(44_mixer_driver.md R205, 20_memory.md R74). -/
def frameWord (m : Int) : Word := BitVec.ofInt 16 m ++ BitVec.ofInt 16 m

/-- The frame word of index `i`: the sum shifted right by 2 (44_mixer_driver.md R204, R205). -/
def frameAt (s : State) (i : Nat) : Word := frameWord (asr (mixSum s i) 2)

/-- Whether a status word of the sink means not ready: bit 3 or bit 2 is set (44_mixer_driver.md R207). -/
def busy (status : Nat) : Bool := (status &&& busyMask) != 0

/-- `sink.send_frame(w)` (44_mixer_driver.md R206). -/
def State.sendFrame (s : State) (w : Word) : State := { s with sent := s.sent ++ [w] }

/-- Step 4, one query of the sink: while it answers busy the engine waits; when it does not, the frame is
sent (44_mixer_driver.md R207). A sink whose listed answers are used up goes on answering busy (log 4). -/
def mixStep (s : State) : Host.Outcome State Fault Refusal :=
  if s.idx < bufMax then
    match s.sinkStatus with
    | [] => .next s
    | status :: later =>
      let asked := { s with sinkStatus := later }
      .next (if busy status then asked else (asked.sendFrame (frameAt asked asked.idx)).nextFrame)
  else .fault .bufIndexOutOfRange

end Sys2Proof.Machine
end

