-- ==== Sys2Proof/Machine/HostPort.lean ====
section
/-! DEFINITION. The host's transactions (45_host_interface.md). -/

namespace Sys2Proof.Machine

/-- `RESET` (45_host_interface.md R220): every register, the global registers and the program memories. The
frame buffers are unspecified afterwards (10_state.md R45). The sink is not touched, and what the host and
the sink are going to do, and have observed, is not the block's. -/
def transactReset (s : State) : State :=
  { State.resetOf s.cfg with hostQueue := s.hostQueue, sinkStatus := s.sinkStatus, sent := s.sent, replies := s.replies }

/-- `LOAD_MML(ch, text)` (45_host_interface.md R222). -/
def transactLoad (ch : ChannelId) (text : List Byte) (s : State) : State :=
  { s with mml := s.mml.set ch (Memory.load text), channels := s.channels.set ch Channel.reset }

/-- `SET_VOLUME(v)` (45_host_interface.md R223). -/
def transactSetVolume (v : Nat) (s : State) : State := { s with masterVol := BitVec.ofNat 4 (min v 15) }

/-- `GET_VOLUME()`: returns `master_vol`, no side effect (45_host_interface.md R224). -/
def transactGetVolume (s : State) : State := { s with replies := s.replies ++ [s.masterVol] }

/-- `SET_SKIP(n)`: replaces the value (45_host_interface.md R225). -/
def transactSetSkip (n : Word) (s : State) : State := { s with skipCounter := n }

/-- One transaction (45_host_interface.md R221); of `TICK`, its first two steps (44_mixer_driver.md R200). -/
def transact (t : Transaction) (s : State) : State :=
  match t with
  | .reset => transactReset s
  | .loadMml ch text => transactLoad ch text s
  | .setVolume v => transactSetVolume v s
  | .getVolume => transactGetVolume s
  | .setSkip n => transactSetSkip n s
  | .tick => beginTick s

/-- Between transactions: the next one the host issues, or nothing, and then the block holds its state
(45_host_interface.md R221). A configuration that is not legal is refused (93_implementation_defined.md U11, U12). -/
def hostStep (s : State) : Host.Outcome State Fault Refusal :=
  match s.hostQueue with
  | [] => .next s
  | t :: later =>
    if configLegal s.cfg then .next (transact t { s with hostQueue := later }) else .refused .illegalConfiguration

end Sys2Proof.Machine
end

