-- ==== Sys2Proof/Machine/Step.lean ====
section
/-! DEFINITION. One step of the machine: one transaction of the host (of `TICK` its first two parts), one
channel's prologue, one sample step, one token of a parser run, or one query of the sink (log 1). -/

namespace Sys2Proof.Machine

/-- Inside `Parse`: the token at `mml_pos` is fetched, decoded and executed (41_mml_commands.md R130). -/
def parseStep (s : State) : Host.Outcome State Fault Refusal :=
  match s.fetchToken with
  | some i => exec i s
  | none => .fault .mmlIndexOutOfRange

/-- One step, by where the engine stands (44_mixer_driver.md R200). -/
def step (s : State) : Host.Outcome State Fault Refusal :=
  match s.phase with
  | .idle => hostStep s
  | .prologue => .next (prologueStep s)
  | .sample => sampleStep s
  | .parse => parseStep s
  | .mix => mixStep s

/-- `s` about to run the token whose bytes are the `nbits` bits of `w`, least significant byte first, with the
text ended after them, as the next token of the channel being processed (log 10). -/
def State.withFetchWord (s : State) (nbits w : Nat) : State := s.placeToken (bytesOf (nbits / 8) w)

end Sys2Proof.Machine
end

