-- ==== Sys2Proof/Safety.lean ====
section
/-! DEFINITION. The terms the statements use: the invariants of 10_state.md R50, runs, the two hangs of
60_exceptions.md R243, and the spec's own way of saying what an operand means. -/

namespace Sys2Proof.Machine

/-- The invariants of one channel's registers (10_state.md R50 (a), (b), (c), (f) and R23). The range of a
register that its width alone gives needs no clause. -/
structure ChannelInv (cfg : Config) (text : Memory) (c : Channel) : Prop where
  /-- R50 (a) -/
  posInText : c.mmlPos.toNat ≤ text.textLength
  /-- R28 -/
  tempoPos : 1 ≤ c.tempo.toNat
  /-- R29 -/
  keylenPos : 1 ≤ c.defKeylen.toNat
  /-- R50 (b) -/
  defLenIsDur : c.defLen.toNat = dur c.tempo.toNat c.defKeylen.toNat
  /-- R34 -/
  gateRange : 1 ≤ c.toneRate.toNat ∧ c.toneRate.toNat ≤ 8
  /-- R35 -/
  dutyRange : 1 ≤ c.pwmRate.toNat ∧ c.pwmRate.toNat ≤ 99
  /-- R37 -/
  envLenPos : 1 ≤ c.envLen.toNat
  /-- R50 (f) -/
  periodKnown : c.frValue = sentinelNoTone ∨ c.frValue ∈ cfg.notePeriod
  /-- R23: the saturation bounds -/
  tuneRange : -2147483647 ≤ c.frTune.toInt

/-- The invariant of the machine: 10_state.md R50 for every channel, the memories in canonical form, a legal
configuration, and the sample index inside the tick (20_memory.md R77). -/
structure Inv (s : State) : Prop where
  cfgLegal : configLegal s.cfg = true
  channels : ∀ ch, ChannelInv s.cfg (s.mml.get ch) (s.channels.get ch)
  mmlWf : ∀ ch, (s.mml.get ch).wf = true
  bufWf : ∀ ch, (s.buf.get ch).wf = true
  idxInTick : s.idx < s.cfg.nTick

/-- `n` steps, stopping at the first fault or refusal. -/
def runSteps (n : Nat) (s : State) : Host.Outcome State Fault Refusal := Host.Core.run Sys2Proof.core n s

/-- The tokens of a list executed one after another, stopping at the first fault or refusal. -/
def execAll : List Instr → State → Host.Outcome State Fault Refusal
  | [], s => .next s
  | i :: rest, s =>
    match exec i s with
    | .next t => execAll rest t
    | .fault r => .fault r
    | .refused r => .refused r

/-- Whether the text of a program memory holds a note letter or a rest before its end (70_reset_and_hazards.md
R276). -/
def Playable (m : Memory) : Prop := ∃ i, i < m.textLength ∧ isPlayableByte (m.read i) = true

/-- A hang inside `Parse`: however many steps are taken, the engine is still parsing and no frame has been
sent (41_mml_commands.md R148). -/
def ParserHang (s : State) : Prop := ∀ n, ∃ t, runSteps n s = .next t ∧ t.phase = .parse ∧ t.sent = s.sent

/-- A hang at the sink: however many steps are taken, the engine is still polling for the same frame, and
only the sink's answers have moved on (44_mixer_driver.md R207, 70_reset_and_hazards.md R282). -/
def SinkHang (s : State) : Prop := ∀ n, ∃ left, runSteps n s = .next { s with sinkStatus := left }

/-- Whether a byte is one of the three accidentals (30_encoding.md R94). -/
def isAccidentalByte (byte : Byte) : Bool := byte == 0x23#8 || byte == 0x2B#8 || byte == 0x2D#8

/-- Whether a token with digits and a dot to its suffix (format L), of which `dot` says if the dot is there,
would take `byte` too: nothing after the dot, else a digit or the dot (30_encoding.md R92). -/
def restTakes (dot : Bool) (byte : Byte) : Bool := !dot && (isDigitByte byte || byte == 0x2E#8)

/-- Whether a note (format N) would take `byte` too: what a rest would, and an accidental where the token ends
at its opcode byte (30_encoding.md R92, R94). -/
def noteTakes (acc : Accidental) (digits : List Nat) (dot : Bool) (byte : Byte) : Bool :=
  restTakes dot byte || (!dot && digits.isEmpty && acc == .natural && isAccidentalByte byte)

/-- Whether a token already read would take `byte` too if it came next: the fields are taken greedily and in
order, so only these bytes cannot follow the token as the next one's opcode byte (30_encoding.md R92). -/
def stillTakes (i : Instr) (byte : Byte) : Bool :=
  match i with
  | .c _ acc digits dot => noteTakes acc digits dot byte
  | .d _ acc digits dot => noteTakes acc digits dot byte
  | .e _ acc digits dot => noteTakes acc digits dot byte
  | .f _ acc digits dot => noteTakes acc digits dot byte
  | .g _ acc digits dot => noteTakes acc digits dot byte
  | .a _ acc digits dot => noteTakes acc digits dot byte
  | .b _ acc digits dot => noteTakes acc digits dot byte
  | .r _ _ dot => restTakes dot byte
  | .tie => false
  | .t _ _ => isDigitByte byte
  | .l _ _ => isDigitByte byte
  | .o _ _ => isDigitByte byte
  | .octUp => false
  | .octDown => false
  | .v _ _ => isDigitByte byte
  | .x _ _ => isDigitByte byte
  | .q _ _ => isDigitByte byte
  | .s _ _ => isDigitByte byte
  | .m _ _ => isDigitByte byte
  | .tone _ => isDigitByte byte
  | .p _ _ => isDigitByte byte
  | .h _ _ => isDigitByte byte
  | .eos => false
  | .skip _ => false

/-- The number a run of decimal digits writes, most significant digit first. -/
def decimalValue (digits : List Nat) : Nat := digits.foldl (fun n digit => n * 10 + digit) 0

/-- The operand `n` of 30_encoding.md R95: the decimal value, at most 65535; 0 where no digit is present. -/
def numberOf (digits : List Nat) : Nat := min (decimalValue digits) 65535

/-- The duration in samples of 30_encoding.md R96, by 40_mml_notes.md R110 where the length is explicit. -/
def noteDuration (c : Channel) (digits : List Nat) (dot : Bool) : Nat :=
  let plain := if numberOf digits = 0 then c.defLen.toNat else 172800000 / c.tempo.toNat * 4 / numberOf digits
  if dot then min (plain + plain / 2) 4294967295 else plain

/-- The seven note tokens with their scale positions (40_mml_notes.md R111). -/
def noteTokens : List (Nat × (LetterCase → Accidental → List Nat → Bool → Instr)) :=
  [(0, .c), (2, .d), (4, .e), (5, .f), (7, .g), (9, .a), (11, .b)]

/-- The opcode bytes of the seven note letters, upper and lower case (30_encoding.md R91, R97). -/
def noteLetters : List (Byte × Byte × (LetterCase → Accidental → List Nat → Bool → Instr)) :=
  [(0x43#8, 0x63#8, .c), (0x44#8, 0x64#8, .d), (0x45#8, 0x65#8, .e), (0x46#8, 0x66#8, .f), (0x47#8, 0x67#8, .g),
   (0x41#8, 0x61#8, .a), (0x42#8, 0x62#8, .b)]

/-- The semitones an accidental adds: `#` and `+` one, `-` minus one, none of them nothing (30_encoding.md R94). -/
def semitones : Accidental → Int
  | .sharp => 1
  | .plus => 1
  | .flat => -1
  | .natural => 0

/-- The period a note at index `idx` has: a table entry, or 0 out of range (40_mml_notes.md R112). -/
def periodAt (cfg : Config) (idx : Int) : Half :=
  if 0 ≤ idx ∧ idx ≤ 83 then cfg.notePeriod.getD idx.toNat 0#16 else 0#16

/-- The periods of the default `NOTE_PERIOD`, one row for each stored octave, as 20_memory.md R65 lists them. -/
def listedPeriods : List Nat :=
  [1468, 1385, 1308, 1234, 1165, 1100, 1038, 980, 925, 873, 824, 778] ++
  [734, 693, 654, 617, 582, 550, 519, 490, 462, 436, 412, 389] ++
  [367, 346, 327, 309, 291, 275, 259, 245, 231, 218, 206, 194] ++
  [183, 173, 163, 154, 146, 137, 130, 122, 116, 109, 103, 97] ++
  [92, 87, 82, 77, 73, 69, 65, 61, 58, 55, 51, 49] ++
  [46, 43, 41, 39, 36, 34, 32, 31, 29, 27, 26, 24] ++
  [23, 22, 20, 19, 18, 17, 16, 15, 14, 14, 13, 12]

/-- Entries 0 to 127 of the default sine table, as 20_memory.md R69 lists them. -/
def listedSine : List Int :=
  [0, 804, 1608, 2410, 3212, 4011, 4808, 5602, 6393, 7179, 7962, 8739, 9512, 10278, 11039, 11793] ++
  [12539, 13279, 14010, 14732, 15446, 16151, 16846, 17530, 18204, 18868, 19519, 20159, 20787, 21403, 22005, 22594] ++
  [23170, 23731, 24279, 24811, 25329, 25832, 26319, 26790, 27245, 27683, 28105, 28510, 28898, 29268, 29621, 29956] ++
  [30273, 30571, 30852, 31113, 31356, 31580, 31785, 31971, 32137, 32285, 32412, 32521, 32609, 32678, 32728, 32757] ++
  [32767, 32757, 32728, 32678, 32609, 32521, 32412, 32285, 32137, 31971, 31785, 31580, 31356, 31113, 30852, 30571] ++
  [30273, 29956, 29621, 29268, 28898, 28510, 28105, 27683, 27245, 26790, 26319, 25832, 25329, 24811, 24279, 23731] ++
  [23170, 22594, 22005, 21403, 20787, 20159, 19519, 18868, 18204, 17530, 16846, 16151, 15446, 14732, 14010, 13279] ++
  [12539, 11793, 11039, 10278, 9512, 8739, 7962, 7179, 6393, 5602, 4808, 4011, 3212, 2410, 1608, 804]

/-- Entry `i` of the default triangle table by the three ranges of 20_memory.md R68. -/
def triangleOf (i : Nat) : Int :=
  if i < 64 then 511 * i else if i < 192 then 511 * (128 - i) else 511 * (i - 256)

/-- The step of the shift register of 20_memory.md R71: a logical shift right by one, and 0xB400 exclusive-ored in
where the bit shifted out was 1. -/
def lfsrStep (v : Half) : Half := if v.getLsbD 0 then v >>> 1 ^^^ 0xB400#16 else v >>> 1

/-- A legal default text: at most 512 bytes, and a note letter or a rest before the first 0x00
(93_implementation_defined.md U12, 70_reset_and_hazards.md R276). -/
def LegalText (text : List Byte) : Prop :=
  text.length ≤ 512 ∧ ∃ before byte later, text = before ++ byte :: later ∧ 0x00#8 ∉ before
    ∧ byte &&& 0xDF#8 ∈ [0x41#8, 0x42#8, 0x43#8, 0x44#8, 0x45#8, 0x46#8, 0x47#8, 0x52#8]

/-- What the spec requires of the open parameters (93_implementation_defined.md U11, U12). That a wavetable entry
is a signed 16-bit number its type says. -/
structure LegalConfig (cfg : Config) : Prop where
  /-- 00_scope.md R8 -/
  tick : 1 ≤ cfg.nTick ∧ cfg.nTick ≤ 1200
  /-- 20_memory.md R64 -/
  periods : cfg.notePeriod.length = 84 ∧ 0#16 ∉ cfg.notePeriod
  /-- 20_memory.md R66 -/
  curve : cfg.volCurve.length = 16 ∧ cfg.volCurve.head? = some 0#9 ∧ cfg.volCurve.Pairwise (fun v w => v.toNat ≤ w.toNat)
    ∧ ∀ v ∈ cfg.volCurve, v.toNat ≤ 256
  /-- 20_memory.md R67 -/
  tables : cfg.wavetable.length = 4 ∧ ∀ table ∈ cfg.wavetable, table.length = 256
  /-- U12 -/
  texts : ∀ ch, LegalText (cfg.defaultMml.get ch)

/-- Where a tick of `nTick` samples goes on after sample `i` of channel `ch`, once any parser run has ended: the
phase, the channel and the index. Each channel has exactly `nTick` sample steps, the channels follow one another
in the order 0, 1, 2, 3, and the mix comes last (44_mixer_driver.md R200, R203). -/
def placeAfterSample (nTick : Nat) (ch : ChannelId) (i : Nat) : Phase × ChannelId × Nat :=
  if i + 1 < nTick then (.sample, ch, i + 1)
  else match ch with
    | .ch0 => (.prologue, .ch1, 0)
    | .ch1 => (.prologue, .ch2, 0)
    | .ch2 => (.prologue, .ch3, 0)
    | .ch3 => (.mix, .ch0, 0)

/-- Everything the processing of channel `ch` reads is the same in both states (10_state.md R20, 60_exceptions.md R253). -/
def SameVoice (ch : ChannelId) (s t : State) : Prop :=
  s.cfg = t.cfg ∧ s.masterVol = t.masterVol ∧ s.channels.get ch = t.channels.get ch
  ∧ s.mml.get ch = t.mml.get ch ∧ s.buf.get ch = t.buf.get ch

/-- The engine stands at the same place of its tick in both states. -/
def SamePlace (s t : State) : Prop := s.phase = t.phase ∧ s.chan = t.chan ∧ s.idx = t.idx

/-- One sample step's effect on the phase accumulator alone. -/
def phaseStep (cfg : Config) (c : Channel) : Channel := { c with frCounter := (wave cfg c).2 }

end Sys2Proof.Machine
end

