-- ==== Sys2Proof/Certificates/Slice0/Obligations.lean ====
section
/-! DEFINITION. The statements for the provers. Each says which rule of spec/ it rests on in OBLIGATIONS.json. -/

open Sys2Proof Sys2Proof.Machine

/-- A few words written out from the encoding tables decode to the tokens they stand for (30_encoding.md section 1 and section 3 (R92, R97)).
The codes of the characters are the spec's general knowledge G5, the end byte 0x00 its own decision D26: log 15. -/
def Obligations.DecodesWrittenWords : Prop :=
  decode [0x63#8, 0x34#8] = (.c .lower .natural [4] false, [])
  ∧ decode [0x66#8, 0x23#8, 0x32#8] = (.f .lower .sharp [2] false, [])
  ∧ decode [0x61#8, 0x2D#8, 0x31#8, 0x36#8] = (.a .lower .flat [1, 6] false, [])
  ∧ decode [0x65#8, 0x38#8, 0x2E#8] = (.e .lower .natural [8] true, [])
  ∧ decode [0x47#8, 0x2B#8] = (.g .upper .plus [] false, [])
  ∧ decode [0x72#8, 0x31#8] = (.r .lower [1] false, [])
  ∧ decode [0x74#8, 0x36#8, 0x30#8] = (.t .lower [6, 0], [])
  ∧ decode [0x40#8, 0x34#8] = (.tone [4], [])
  ∧ decode [0x26#8] = (.tie, []) ∧ decode [0x3C#8] = (.octDown, []) ∧ decode [0x3E#8] = (.octUp, [])
  ∧ decode [0x20#8] = (.skip 0x20#8, []) ∧ decode [0x00#8] = (.eos, [])

/-- The SKIP class is 215 bytes; each is one token that only moves the cursor (30_encoding.md R98, 41_mml_commands.md R147).
That 0x00 ends the text, and so is no skip byte, is the spec's own decision D26: log 15. -/
def Obligations.SkipTokensAreTheOtherBytes : Prop :=
  (∀ byte rest, isSkipByte byte = true → decode (byte :: rest) = (.skip byte, rest))
  ∧ (∀ byte rest, isSkipByte byte = false → (decode (byte :: rest)).1.opcode ≠ .skip)
  ∧ ((List.range 256).filter (fun n => isSkipByte (BitVec.ofNat 8 n))).length = 215
  ∧ ∀ byte s, exec (.skip byte) s = .next { s with
    channels := s.channels.set s.chan
      { s.channels.get s.chan with mmlPos := (s.channels.get s.chan).mmlPos + 1#10 } }

/-- Decoding an encoded well-formed token gives it back, whatever follows that the token itself could not still take (30_encoding.md R92, 30_encoding.md R93, 30_encoding.md R94, 30_encoding.md R97).
That an instruction keeps its whole spelling is the model's choice: log 9.
One accidental and one dot at most, and the end byte 0x00, are the spec's own decisions D22, D23 and D26: log 15. -/
def Obligations.DecodeOfEncode : Prop :=
  ∀ i rest, Instr.wellFormed i = true → (∀ byte, List.head? rest = some byte → stillTakes i byte = false) →
    decode (encode i ++ rest) = (i, rest)

/-- Every text is the encoding of its first token followed by the rest; no byte is dropped (30_encoding.md R90, 30_encoding.md R92, 30_encoding.md R93).
That an instruction keeps its whole spelling is the model's choice: log 9. -/
def Obligations.EncodeOfDecode : Prop :=
  ∀ text : List Byte, text ≠ [] →
    encode (decode text).1 ++ (decode text).2 = text ∧ (text.length ≤ 512 → (decode text).1.wellFormed = true)

/-- Every token completes in every state and moves mml_pos by its length in bytes; EOS sets it to 0 (41_mml_commands.md R132, 30_encoding.md R93).
The 10-bit sum wraps only for tokens that no program memory holds: log 9.
The collected rule R132 is the spec's own inference. -/
def Obligations.EveryTokenCompletesAndAdvances : Prop :=
  ∀ i s, ∃ t, exec i s = .next t ∧
    (t.channels.get s.chan).mmlPos =
      if i = .eos then 0#10 else (s.channels.get s.chan).mmlPos + BitVec.ofNat 10 (encode i).length

/-- Inside Parse a step executes the token decoded at mml_pos (41_mml_commands.md R130, 20_memory.md R63).
One step is one token inside Parse: log 1.
The end of the text at 0x00 and at index 512 is the spec's own decision D26: log 15. -/
def Obligations.StepRunsTheDecodedToken : Prop :=
  ∀ s i rest, s.phase = .parse → (s.channels.get s.chan).mmlPos.toNat ≤ 512 → decode s.textAhead = (i, rest) →
    step s = exec i s

/-- The text the parser decodes is the channel's own program memory from mml_pos to 511, and it ends at len(mml) (20_memory.md R62, 20_memory.md R63).
The end of the text at 0x00 and at index 512 is the spec's own decision D26: log 15. -/
def Obligations.FetchReadsTheChannelsOwnMemory : Prop :=
  (∀ s : State, s.textAhead.length = 512 - (s.channels.get s.chan).mmlPos.toNat
      ∧ ∀ k, k < 512 - (s.channels.get s.chan).mmlPos.toNat →
          s.textAhead[k]? = some (s.readMml s.chan ((s.channels.get s.chan).mmlPos.toNat + k)))
  ∧ (∀ (m : Memory) i, i ≤ m.textLength → (m.fetch i = 0x00#8 ↔ i = m.textLength))
  ∧ ∀ m : Memory, m.textLength ≤ 512 ∧ m.fetch 512 = 0x00#8

/-- ParseNum gives the decimal value of the digit run, at most 65535 (30_encoding.md R95).
The saturation is the spec's own decision D18: log 15. -/
def Obligations.ParseNumIsTheSaturatedDecimalValue : Prop :=
  ∀ digits, parseNum digits = if digits = [] then none else some (min (decimalValue digits) 65535)

/-- The note-length function: its value, its check points, its range, and its use for an explicit length (40_mml_notes.md R110).
The truncation and the formula's reading are the spec's own decisions D3 and D4, the range its own inference in R110: log 15. -/
def Obligations.NoteLengthLaw : Prop :=
  (∀ T L, 1 ≤ T → 1 ≤ L → dur T L = 172800000 / T * 4 / L ∧ dur T L ≤ 691200000 ∧ dur T L < 2 ^ 32)
  ∧ dur 120 4 = 1440000 ∧ dur 60 8 = 1440000 ∧ dur 65535 65535 = 0
  ∧ ∀ (c : Channel) digits, numberOf digits ≠ 0 → (lengthOperand c digits false).toNat = dur c.tempo.toNat (numberOf digits)

/-- A note without a tie starts afresh: its whole next state, for the seven note tokens (40_mml_notes.md R112, 40_mml_notes.md R114, 40_mml_notes.md R111, 30_encoding.md R96, 44_mixer_driver.md R203, 44_mixer_driver.md R200, 30_encoding.md R91, 30_encoding.md R94, 30_encoding.md R97).
The saturation and the zero length that counts as absent are the spec's own decisions D17 and D20: log 15.
The order of the channels is the spec's own decision D36: log 15.
The scale positions, the one accidental and the dotted length (general knowledge G3 and G4), and the sentinel 0 are the spec's own decisions D22, D23 and D5: log 15.
The codes of the characters are general knowledge G5, the folding of the case the spec's own decision D26: log 15. -/
def Obligations.NoteStartsFresh : Prop :=
  (∀ e ∈ noteLetters, ∀ rest,
      decode (e.1 :: rest) = (e.2.2 .upper (takeAccidental rest).1 (takeDigits (takeAccidental rest).2).1 (takeDot (takeDigits (takeAccidental rest).2).2).1,
          (takeDot (takeDigits (takeAccidental rest).2).2).2)
      ∧ decode (e.2.1 :: rest) = (e.2.2 .lower (takeAccidental rest).1 (takeDigits (takeAccidental rest).2).1 (takeDot (takeDigits (takeAccidental rest).2).2).1,
          (takeDot (takeDigits (takeAccidental rest).2).2).2))
  ∧ ∀ e ∈ noteTokens, ∀ k acc digits dot s, (s.channels.get s.chan).tie = false →
    exec (e.2 k acc digits dot) s = .next { s with
    channels := s.channels.set s.chan
      { s.channels.get s.chan with
          mmlPos := (s.channels.get s.chan).mmlPos
            + BitVec.ofNat 10 (1 + (if acc = .natural then 0 else 1) + digits.length + (if dot then 1 else 0))
          frValue := periodAt s.cfg ((e.1 : Int) + semitones acc + 12 * ((s.channels.get s.chan).octave.toNat : Int))
          len := BitVec.ofNat 32 (noteDuration (s.channels.get s.chan) digits dot)
          slicePos := 0#32
          framePos := 0#32
          frCounter := 0#32
          frTune := 0#32
          intVol := (s.channels.get s.chan).localVol }
    phase := (placeAfterSample s.cfg.nTick s.chan s.idx).1
    chan := (placeAfterSample s.cfg.nTick s.chan s.idx).2.1
    idx := (placeAfterSample s.cfg.nTick s.chan s.idx).2.2 }

/-- A tied note extends the current one: its whole next state, for the seven note tokens (40_mml_notes.md R112, 40_mml_notes.md R114, 44_mixer_driver.md R203, 44_mixer_driver.md R200, 30_encoding.md R94).
The saturation is the spec's own decision D17: log 15.
The order of the channels is the spec's own decision D36: log 15.
That a tied note writes fr_value is the spec's own decision D38; the zero length that counts as absent, the scale positions and the one accidental, the dotted length and the sentinel 0 are D20, D22, D23 and D5: log 15. -/
def Obligations.NoteBindsTie : Prop :=
  ∀ e ∈ noteTokens, ∀ k acc digits dot s, (s.channels.get s.chan).tie = true →
    exec (e.2 k acc digits dot) s = .next { s with
    channels := s.channels.set s.chan
      { s.channels.get s.chan with
          mmlPos := (s.channels.get s.chan).mmlPos
            + BitVec.ofNat 10 (1 + (if acc = .natural then 0 else 1) + digits.length + (if dot then 1 else 0))
          frValue := periodAt s.cfg ((e.1 : Int) + semitones acc + 12 * ((s.channels.get s.chan).octave.toNat : Int))
          len := BitVec.ofNat 32 (min ((s.channels.get s.chan).len.toNat + noteDuration (s.channels.get s.chan) digits dot) 4294967295)
          tie := false }
    phase := (placeAfterSample s.cfg.nTick s.chan s.idx).1
    chan := (placeAfterSample s.cfg.nTick s.chan s.idx).2.1
    idx := (placeAfterSample s.cfg.nTick s.chan s.idx).2.2 }

/-- A rest stores the sentinel and has a note's duration handling: its whole next state (40_mml_notes.md R120, 40_mml_notes.md R114, 44_mixer_driver.md R203, 44_mixer_driver.md R200, 30_encoding.md R91, 30_encoding.md R97).
The saturation is the spec's own decision D17: log 15.
The order of the channels is the spec's own decision D36: log 15.
The zero length that counts as absent, the dotted length, the sentinel 0 and the tied rest are the spec's own decisions D20, D23, D5 and D38: log 15.
The codes of the characters are general knowledge G5, the folding of the case the spec's own decision D26: log 15. -/
def Obligations.RestIsSilentNote : Prop :=
  (∀ rest, decode (0x52#8 :: rest) = (.r .upper (takeDigits rest).1 (takeDot (takeDigits rest).2).1, (takeDot (takeDigits rest).2).2)
      ∧ decode (0x72#8 :: rest) = (.r .lower (takeDigits rest).1 (takeDot (takeDigits rest).2).1, (takeDot (takeDigits rest).2).2))
  ∧ ∀ k digits dot s, exec (.r k digits dot) s = .next { s with
    channels := s.channels.set s.chan
      (if (s.channels.get s.chan).tie = true then
        { s.channels.get s.chan with
            mmlPos := (s.channels.get s.chan).mmlPos + BitVec.ofNat 10 (1 + digits.length + (if dot then 1 else 0))
            frValue := 0#16
            len := BitVec.ofNat 32 (min ((s.channels.get s.chan).len.toNat + noteDuration (s.channels.get s.chan) digits dot) 4294967295)
            tie := false }
      else
        { s.channels.get s.chan with
            mmlPos := (s.channels.get s.chan).mmlPos + BitVec.ofNat 10 (1 + digits.length + (if dot then 1 else 0))
            frValue := 0#16
            len := BitVec.ofNat 32 (noteDuration (s.channels.get s.chan) digits dot)
            slicePos := 0#32
            framePos := 0#32
            frCounter := 0#32
            frTune := 0#32
            intVol := (s.channels.get s.chan).localVol })
    phase := (placeAfterSample s.cfg.nTick s.chan s.idx).1
    chan := (placeAfterSample s.cfg.nTick s.chan s.idx).2.1
    idx := (placeAfterSample s.cfg.nTick s.chan s.idx).2.2 }

/-- A note index outside the table gives a rest: octave 7 but for c flat, c flat in octave 0, b sharp in octave 6 (40_mml_notes.md R112, 70_reset_and_hazards.md R287).
The scale positions and the sentinel 0 are the spec's own decisions D22 (general knowledge G3) and D5: log 15. -/
def Obligations.OutOfRangeNotesAreRests : Prop :=
  (∀ e ∈ noteTokens, ∀ k acc digits dot s, (s.channels.get s.chan).octave = 7#3 →
    ∃ t, exec (e.2 k acc digits dot) s = .next t ∧
      (t.channels.get s.chan).frValue = if e.1 = 0 ∧ acc = .flat then s.cfg.notePeriod.getD 83 0#16 else 0#16)
  ∧ (∀ k digits dot s, (s.channels.get s.chan).octave = 0#3 →
    ∃ t, exec (.c k .flat digits dot) s = .next t ∧ (t.channels.get s.chan).frValue = 0#16)
  ∧ ∀ k acc digits dot s, (s.channels.get s.chan).octave = 6#3 → (acc = .sharp ∨ acc = .plus) →
    ∃ t, exec (.b k acc digits dot) s = .next t ∧ (t.channels.get s.chan).frValue = 0#16

/-- The tie mark sets tie and starts nothing (40_mml_notes.md R122). -/
def Obligations.TieMarkSetsTie : Prop :=
  (∀ rest, decode (0x26#8 :: rest) = (.tie, rest))
  ∧ ∀ s, exec .tie s = .next { s with
    channels := s.channels.set s.chan
      { s.channels.get s.chan with mmlPos := (s.channels.get s.chan).mmlPos + 1#10, tie := true } }

/-- T sets the tempo, 120 where the number is absent or 0, and computes def_len again (41_mml_commands.md R134, 41_mml_commands.md R133).
The cap at 65535, the default of an absent number, and the value stored where the number is out of range are the spec's own decisions D18 to D21: log 15.
The note-length formula and its truncation are D3 and D4: log 15. -/
def Obligations.TSetsTempoAndDefLen : Prop :=
  (∀ rest, decode (0x54#8 :: rest) = (.t .upper (takeDigits rest).1, (takeDigits rest).2)
      ∧ decode (0x74#8 :: rest) = (.t .lower (takeDigits rest).1, (takeDigits rest).2))
  ∧ ∀ k digits s, exec (.t k digits) s = .next { s with
    channels := s.channels.set s.chan
      { s.channels.get s.chan with
          mmlPos := (s.channels.get s.chan).mmlPos + BitVec.ofNat 10 (1 + digits.length)
          tempo := BitVec.ofNat 16 (if numberOf digits = 0 then 120 else numberOf digits)
          defLen := BitVec.ofNat 32 (172800000 / (if numberOf digits = 0 then 120 else numberOf digits) * 4 / (s.channels.get s.chan).defKeylen.toNat) } }

/-- L sets the default length denominator, 4 where absent or 0, and computes def_len again (41_mml_commands.md R135, 41_mml_commands.md R133).
The cap at 65535, the default of an absent number, and the value stored where the number is out of range are the spec's own decisions D18 to D21: log 15.
The note-length formula and its truncation are D3 and D4: log 15. -/
def Obligations.LSetsKeylenAndDefLen : Prop :=
  (∀ rest, decode (0x4C#8 :: rest) = (.l .upper (takeDigits rest).1, (takeDigits rest).2)
      ∧ decode (0x6C#8 :: rest) = (.l .lower (takeDigits rest).1, (takeDigits rest).2))
  ∧ ∀ k digits s, exec (.l k digits) s = .next { s with
    channels := s.channels.set s.chan
      { s.channels.get s.chan with
          mmlPos := (s.channels.get s.chan).mmlPos + BitVec.ofNat 10 (1 + digits.length)
          defKeylen := BitVec.ofNat 16 (if numberOf digits = 0 then 4 else numberOf digits)
          defLen := BitVec.ofNat 32 (172800000 / (s.channels.get s.chan).tempo.toNat * 4 / (if numberOf digits = 0 then 4 else numberOf digits)) } }

/-- O stores the number less one, clamped to 0 to 7, and 4 where absent (41_mml_commands.md R136, 41_mml_commands.md R133).
The cap at 65535, the default of an absent number, and the value stored where the number is out of range are the spec's own decisions D18 to D21: log 15. -/
def Obligations.OSetsOctaveClamped : Prop :=
  (∀ rest, decode (0x4F#8 :: rest) = (.o .upper (takeDigits rest).1, (takeDigits rest).2)
      ∧ decode (0x6F#8 :: rest) = (.o .lower (takeDigits rest).1, (takeDigits rest).2))
  ∧ ∀ k digits s, exec (.o k digits) s = .next { s with
    channels := s.channels.set s.chan
      { s.channels.get s.chan with
          mmlPos := (s.channels.get s.chan).mmlPos + BitVec.ofNat 10 (1 + digits.length)
          octave := BitVec.ofNat 3 (if digits = [] then 4 else min (numberOf digits - 1) 7) } }

/-- V stores the number, at most 15, in local_vol, 15 where absent, and leaves int_vol (41_mml_commands.md R139, 41_mml_commands.md R133).
The cap at 65535, the default of an absent number, and the value stored where the number is out of range are the spec's own decisions D18 to D21: log 15. -/
def Obligations.VSetsLocalVolume : Prop :=
  (∀ rest, decode (0x56#8 :: rest) = (.v .upper (takeDigits rest).1, (takeDigits rest).2)
      ∧ decode (0x76#8 :: rest) = (.v .lower (takeDigits rest).1, (takeDigits rest).2))
  ∧ ∀ k digits s, exec (.v k digits) s = .next { s with
    channels := s.channels.set s.chan
      { s.channels.get s.chan with
          mmlPos := (s.channels.get s.chan).mmlPos + BitVec.ofNat 10 (1 + digits.length)
          localVol := BitVec.ofNat 4 (if digits = [] then 15 else min (numberOf digits) 15) } }

/-- X stores the number clamped to 1 to 99 in pwm_rate, 50 where absent (41_mml_commands.md R140, 41_mml_commands.md R133).
The cap at 65535, the default of an absent number, and the value stored where the number is out of range are the spec's own decisions D18 to D21: log 15. -/
def Obligations.XSetsPwmRateClamped : Prop :=
  (∀ rest, decode (0x58#8 :: rest) = (.x .upper (takeDigits rest).1, (takeDigits rest).2)
      ∧ decode (0x78#8 :: rest) = (.x .lower (takeDigits rest).1, (takeDigits rest).2))
  ∧ ∀ k digits s, exec (.x k digits) s = .next { s with
    channels := s.channels.set s.chan
      { s.channels.get s.chan with
          mmlPos := (s.channels.get s.chan).mmlPos + BitVec.ofNat 10 (1 + digits.length)
          pwmRate := BitVec.ofNat 7 (if digits = [] then 50 else max 1 (min (numberOf digits) 99)) } }

/-- Q stores the number clamped to 1 to 8 in tone_rate, 8 where absent (41_mml_commands.md R141, 41_mml_commands.md R133).
The cap at 65535, the default of an absent number, and the value stored where the number is out of range are the spec's own decisions D18 to D21: log 15. -/
def Obligations.QSetsToneRateClamped : Prop :=
  (∀ rest, decode (0x51#8 :: rest) = (.q .upper (takeDigits rest).1, (takeDigits rest).2)
      ∧ decode (0x71#8 :: rest) = (.q .lower (takeDigits rest).1, (takeDigits rest).2))
  ∧ ∀ k digits s, exec (.q k digits) s = .next { s with
    channels := s.channels.set s.chan
      { s.channels.get s.chan with
          mmlPos := (s.channels.get s.chan).mmlPos + BitVec.ofNat 10 (1 + digits.length)
          toneRate := BitVec.ofNat 4 (if digits = [] then 8 else max 1 (min (numberOf digits) 8)) } }

/-- S, P and the timbre token store the number, at most 255, in env_no, pitch_no and tone_no, 0 where absent (41_mml_commands.md R142, 41_mml_commands.md R144, 41_mml_commands.md R145).
The cap at 65535, the default of an absent number, and the value stored where the number is out of range are the spec's own decisions D18 to D21: log 15. -/
def Obligations.ShapeAndTimbreTokensSetTheirSelectors : Prop :=
  ((∀ rest, decode (0x53#8 :: rest) = (.s .upper (takeDigits rest).1, (takeDigits rest).2)
      ∧ decode (0x73#8 :: rest) = (.s .lower (takeDigits rest).1, (takeDigits rest).2))
    ∧ ∀ k digits s, exec (.s k digits) s = .next { s with
      channels := s.channels.set s.chan
        { s.channels.get s.chan with
            mmlPos := (s.channels.get s.chan).mmlPos + BitVec.ofNat 10 (1 + digits.length)
            envNo := BitVec.ofNat 8 (min (numberOf digits) 255) } })
  ∧ ((∀ rest, decode (0x50#8 :: rest) = (.p .upper (takeDigits rest).1, (takeDigits rest).2)
      ∧ decode (0x70#8 :: rest) = (.p .lower (takeDigits rest).1, (takeDigits rest).2))
    ∧ ∀ k digits s, exec (.p k digits) s = .next { s with
      channels := s.channels.set s.chan
        { s.channels.get s.chan with
            mmlPos := (s.channels.get s.chan).mmlPos + BitVec.ofNat 10 (1 + digits.length)
            pitchNo := BitVec.ofNat 8 (min (numberOf digits) 255) } })
  ∧ (∀ rest, decode (0x40#8 :: rest) = (.tone (takeDigits rest).1, (takeDigits rest).2))
  ∧ ∀ digits s, exec (.tone digits) s = .next { s with
    channels := s.channels.set s.chan
      { s.channels.get s.chan with
          mmlPos := (s.channels.get s.chan).mmlPos + BitVec.ofNat 10 (1 + digits.length)
          toneNo := BitVec.ofNat 8 (min (numberOf digits) 255) } }

/-- M stores the number, at least 1, in env_len, 1 where absent (41_mml_commands.md R143, 41_mml_commands.md R133).
The cap at 65535 and the 1 stored where the number is absent are the spec's own decisions D18 and D19: log 15. -/
def Obligations.MSetsEnvelopeStep : Prop :=
  (∀ rest, decode (0x4D#8 :: rest) = (.m .upper (takeDigits rest).1, (takeDigits rest).2)
      ∧ decode (0x6D#8 :: rest) = (.m .lower (takeDigits rest).1, (takeDigits rest).2))
  ∧ ∀ k digits s, exec (.m k digits) s = .next { s with
    channels := s.channels.set s.chan
      { s.channels.get s.chan with
          mmlPos := (s.channels.get s.chan).mmlPos + BitVec.ofNat 10 (1 + digits.length)
          envLen := BitVec.ofNat 16 (max (numberOf digits) 1) } }

/-- H stores the number in tune_depth, 0 where absent (41_mml_commands.md R146, 41_mml_commands.md R133).
The cap at 65535 and the 0 stored where the number is absent are the spec's own decisions D18 and D19: log 15. -/
def Obligations.HSetsTuneDepth : Prop :=
  (∀ rest, decode (0x48#8 :: rest) = (.h .upper (takeDigits rest).1, (takeDigits rest).2)
      ∧ decode (0x68#8 :: rest) = (.h .lower (takeDigits rest).1, (takeDigits rest).2))
  ∧ ∀ k digits s, exec (.h k digits) s = .next { s with
    channels := s.channels.set s.chan
      { s.channels.get s.chan with
          mmlPos := (s.channels.get s.chan).mmlPos + BitVec.ofNat 10 (1 + digits.length)
          tuneDepth := BitVec.ofNat 16 (numberOf digits) } }

/-- The octave up token and any number of them in a row, clamped (R137). -/
def Obligations.OctUpClampsAtSeven : Prop :=
  (∀ rest, decode (0x3E#8 :: rest) = (.octUp, rest))
  ∧ (∀ s, exec .octUp s = .next { s with
    channels := s.channels.set s.chan
      { s.channels.get s.chan with
          mmlPos := (s.channels.get s.chan).mmlPos + 1#10
          octave := BitVec.ofNat 3 (min ((s.channels.get s.chan).octave.toNat + 1) 7) } })
  ∧ ∀ n s, ∃ t, execAll (List.replicate n .octUp) s = .next t ∧ (t.channels.get s.chan).octave.toNat = min ((s.channels.get s.chan).octave.toNat + n) 7

/-- The octave down token and any number of them in a row, clamped (R138). -/
def Obligations.OctDownClampsAtZero : Prop :=
  (∀ rest, decode (0x3C#8 :: rest) = (.octDown, rest))
  ∧ (∀ s, exec .octDown s = .next { s with
    channels := s.channels.set s.chan
      { s.channels.get s.chan with
          mmlPos := (s.channels.get s.chan).mmlPos + 1#10
          octave := BitVec.ofNat 3 ((s.channels.get s.chan).octave.toNat - 1) } })
  ∧ ∀ n s, ∃ t, execAll (List.replicate n .octDown) s = .next t ∧ (t.channels.get s.chan).octave.toNat = (s.channels.get s.chan).octave.toNat - n

/-- The end of the string sets mml_pos to 0, changes nothing else, and is what the parser meets at len(mml) (41_mml_commands.md R131, 20_memory.md R63).
The end of the text at 0x00 and at index 512 is the spec's own decision D26: log 15. -/
def Obligations.EosWrapsToIndexZero : Prop :=
  (∀ s, exec .eos s = .next { s with channels := s.channels.set s.chan { s.channels.get s.chan with mmlPos := 0#10 } })
  ∧ decode [] = (.eos, []) ∧ (∀ rest, decode (0x00#8 :: rest) = (.eos, rest))
  ∧ ∀ s, s.phase = .parse → (s.channels.get s.chan).mmlPos.toNat = (s.mml.get s.chan).textLength → step s = exec .eos s

/-- A token of a channel's program changes that channel's registers and nothing else of the block (60_exceptions.md R250, 10_state.md R20, 20_memory.md R85).
That no token names a memory or an index is the spec's own inference in R85. -/
def Obligations.TokensTouchOnlyTheirOwnRegisters : Prop :=
  ∀ i s, ∃ t, exec i s = .next t ∧ t.cfg = s.cfg ∧ (∀ ch a, t.readMml ch a = s.readMml ch a)
    ∧ (∀ ch a, t.readBuf ch a = s.readBuf ch a) ∧ (∀ ch, ch ≠ s.chan → t.channels.get ch = s.channels.get ch)
    ∧ t.skipCounter = s.skipCounter ∧ t.masterVol = s.masterVol ∧ t.wtReady = s.wtReady ∧ t.hostQueue = s.hostQueue
    ∧ t.sinkStatus = s.sinkStatus ∧ t.sent = s.sent ∧ t.replies = s.replies

/-- A channel's prologue counts the tick and changes frame_pos, int_vol and fr_tune only; the envelope never raises int_vol (44_mixer_driver.md R202, 42_modulators.md R160).
The saturation, the modulators after the increment and the modulators during a rest are the spec's own decisions D17, D30 and D31: log 15. -/
def Obligations.PrologueModulatesTheChannel : Prop :=
  (∀ s, s.phase = .prologue → step s = .next { s with
      channels := s.channels.set s.chan (modulate (s.channels.get s.chan)), phase := .sample, idx := 0 })
  ∧ ∀ c : Channel, (modulate c).framePos.toNat = min (c.framePos.toNat + 1) 4294967295
    ∧ (modulate c).intVol.toNat ≤ c.intVol.toNat
    ∧ { modulate c with framePos := c.framePos, intVol := c.intVol, frTune := c.frTune } = c

/-- Envelope shape 1 ramps int_vol down by 1 a tick to 75 percent of local_vol, truncated (42_modulators.md R161).
The truncation of the target is the spec's own decision D28: log 15. -/
def Obligations.EnvelopeShapeOneRampsToThreeQuarters : Prop :=
  ∀ (c : Channel) (k : Nat), c.envNo = 1#8 →
    (modulate^[k] c).intVol.toNat =
      if c.intVol.toNat ≤ 3 * c.localVol.toNat / 4 then c.intVol.toNat
      else max (3 * c.localVol.toNat / 4) (c.intVol.toNat - k)

/-- Envelope shape 2 ramps int_vol down by 2 a tick to 50 percent of local_vol; the last step may pass it by 1 (42_modulators.md R162).
The truncation of the target and the undershoot are the spec's own decision D28: log 15. -/
def Obligations.EnvelopeShapeTwoRampsToHalf : Prop :=
  ∀ (c : Channel), c.envNo = 2#8 →
    (modulate c).intVol.toNat = (if c.intVol.toNat > c.localVol.toNat / 2 then c.intVol.toNat - 2 else c.intVol.toNat)
    ∧ ∀ k : Nat, (modulate^[k] c).intVol.toNat =
        c.intVol.toNat - 2 * min k ((c.intVol.toNat - c.localVol.toNat / 2 + 1) / 2)

/-- Envelope shape 3 lowers int_vol by 1 at every multiple of env_len (42_modulators.md R163).
That the steps fall where frame_pos is a multiple of env_len is the spec's own decision D28, the saturation of frame_pos D17: log 15. -/
def Obligations.EnvelopeShapeThreeStepsEveryEnvLen : Prop :=
  (∀ (c : Channel), c.envNo = 3#8 → 1 ≤ c.envLen.toNat →
    (modulate c).intVol.toNat =
      if min (c.framePos.toNat + 1) 4294967295 % c.envLen.toNat = 0 then c.intVol.toNat - 1 else c.intVol.toNat)
  ∧ ∀ (c : Channel) (k : Nat), c.envNo = 3#8 → 1 ≤ c.envLen.toNat → c.framePos = 0#32 → k < 2 ^ 32 →
    (modulate^[k] c).intVol.toNat = c.intVol.toNat - k / c.envLen.toNat

/-- Envelope shapes 0 and 4 to 255 leave int_vol; pitch shapes 0 and 4 to 255 leave fr_tune (42_modulators.md R164, 42_modulators.md R169).
That shapes 4 to 255 act as 0 is the spec's own decision D21: log 15. -/
def Obligations.FlatShapesChangeNothing : Prop :=
  ∀ (c : Channel) (k : Nat),
    ((c.envNo.toNat = 0 ∨ 4 ≤ c.envNo.toNat) → (modulate^[k] c).intVol = c.intVol)
    ∧ ((c.pitchNo.toNat = 0 ∨ 4 ≤ c.pitchNo.toNat) → (modulate^[k] c).frTune = c.frTune)

/-- Vibrato sets fr_tune to plus or minus tune_depth by the half-period, from frame_pos 8 on (42_modulators.md R165, 42_modulators.md R166).
Which sign comes first, and counting the half-periods on frame_pos, are the spec's own decision D29, the saturation of frame_pos D17: log 15. -/
def Obligations.VibratoAlternatesAfterOnset : Prop :=
  ∀ (c : Channel), c.pitchNo = 1#8 → 1 ≤ c.envLen.toNat →
    (min (c.framePos.toNat + 1) 4294967295 < 8 → (modulate c).frTune = c.frTune)
    ∧ (8 ≤ min (c.framePos.toNat + 1) 4294967295 → (modulate c).frTune.toInt =
        if min (c.framePos.toNat + 1) 4294967295 / c.envLen.toNat % 2 = 0 then (c.tuneDepth.toNat : Int) else -(c.tuneDepth.toNat : Int))

/-- Drum pitch-up and sweep add or subtract tune_depth at every multiple of env_len from frame_pos 8 on, saturating (42_modulators.md R165, 42_modulators.md R167, 42_modulators.md R168).
That the steps fall where frame_pos is a multiple of env_len, and the saturation, are the spec's own decisions D29 and D17: log 15. -/
def Obligations.DrumAndSweepAccumulate : Prop :=
  (∀ (c : Channel), 1 ≤ c.envLen.toNat →
    (c.pitchNo = 2#8 → (modulate c).frTune.toInt =
      if 8 ≤ min (c.framePos.toNat + 1) 4294967295 ∧ min (c.framePos.toNat + 1) 4294967295 % c.envLen.toNat = 0
      then max (-2147483647) (min 2147483647 (c.frTune.toInt + (c.tuneDepth.toNat : Int))) else c.frTune.toInt)
    ∧ (c.pitchNo = 3#8 → (modulate c).frTune.toInt =
      if 8 ≤ min (c.framePos.toNat + 1) 4294967295 ∧ min (c.framePos.toNat + 1) 4294967295 % c.envLen.toNat = 0
      then max (-2147483647) (min 2147483647 (c.frTune.toInt - (c.tuneDepth.toNat : Int))) else c.frTune.toInt))
  ∧ ∀ (c : Channel) (k : Nat), 1 ≤ c.envLen.toNat → c.framePos = 0#32 → c.frTune = 0#32 → k < 2 ^ 32 →
    (c.pitchNo = 2#8 → (modulate^[k] c).frTune.toInt =
      min 2147483647 ((c.tuneDepth.toNat * (k / c.envLen.toNat - 7 / c.envLen.toNat) : Nat) : Int))
    ∧ (c.pitchNo = 3#8 → (modulate^[k] c).frTune.toInt =
      max (-2147483647) (-((c.tuneDepth.toNat * (k / c.envLen.toNat - 7 / c.envLen.toNat) : Nat) : Int)))

/-- With a constant period P the counts used are 0, 1, ..., P-1, 0, 1, ... (43_waveform.md R182).
The order of wrap test, use and increment is the spec's own decision D12: log 15. -/
def Obligations.PhaseRunsThroughOnePeriod : Prop :=
  ∀ (cfg : Config) (c : Channel) (n : Nat), 1 ≤ effectivePeriod c → c.frCounter = 0#32 →
    phaseCount ((phaseStep cfg)^[n] c) (effectivePeriod c) = n % (effectivePeriod c).toNat

/-- At the point of use the phase count is below the period, and a period below 1 gives silence (43_waveform.md R181, 43_waveform.md R182).
The wrap before use, and silence with the phase held at 0 for a period below 1, are the spec's own decision D12: log 15. -/
def Obligations.PhaseInRangeAtUse : Prop :=
  ∀ (cfg : Config) (c : Channel),
    effectivePeriod c = (c.frValue.toNat : Int) + c.frTune.toInt
    ∧ (∀ P : Int, phaseCount c P = if P ≤ (c.frCounter.toNat : Int) then 0 else c.frCounter.toNat)
    ∧ (effectivePeriod c < 1 → wave cfg c = (0, 0#32))
    ∧ (1 ≤ effectivePeriod c → (phaseCount c (effectivePeriod c) : Int) < effectivePeriod c
        ∧ (wave cfg c).2.toNat = phaseCount c (effectivePeriod c) + 1
        ∧ (wave cfg c).1 = rawSample cfg c (effectivePeriod c) (phaseCount c (effectivePeriod c)))

/-- Timbres 0 to 2 are PWM: low, then high for P - 1 - pwm_thr samples a period while the gate is open, silent while it is closed (43_waveform.md R183, 43_waveform.md R184, 43_waveform.md R185).
The full scale and the strictness of the comparisons are the spec's own decisions D10 and D11: log 15.
That timbres 1 and 2 act as 0 is the spec's own decision D9: log 15. The count of high samples is the spec's own inference in R185. -/
def Obligations.PwmDutyCount : Prop :=
  ∀ (cfg : Config) (c : Channel) (P : Nat), 1 ≤ P → 1 ≤ c.pwmRate.toNat → c.pwmRate.toNat ≤ 99 →
    (∀ count : Nat, pwmSample c P count =
      if c.slicePos.toNat ≤ c.len.toNat * c.toneRate.toNat / 8 ∧ P * (100 - c.pwmRate.toNat) / 100 < count then 32767 else 0)
    ∧ (∀ count : Nat, c.toneNo.toNat < 3 → rawSample cfg c P count =
      if c.slicePos.toNat ≤ c.len.toNat * c.toneRate.toNat / 8 ∧ P * (100 - c.pwmRate.toNat) / 100 < count then 32767 else 0)
    ∧ (c.slicePos.toNat ≤ c.len.toNat * c.toneRate.toNat / 8 →
        ((List.range P).filter (fun count => decide (pwmSample c P count = 32767))).length = P - 1 - P * (100 - c.pwmRate.toNat) / 100)

/-- The wavetable index is (256 * count) / P and lies in 0 to 255; an unassigned timbre is silent (43_waveform.md R186, 43_waveform.md R187).
That an unassigned timbre is silent, and which timbre selects which table, are the spec's own decisions D9 and D8: log 15. -/
def Obligations.TableIndexInRange : Prop :=
  (∀ P count : Nat, count < P → tableIndex P count = 256 * count / P ∧ tableIndex P count ≤ 255)
  ∧ ∀ (cfg : Config) (c : Channel) (P count : Nat), count < P →
      (3 ≤ c.toneNo.toNat → c.toneNo.toNat ≤ 6 → rawSample cfg c P count =
        ((cfg.wavetable.getD (c.toneNo.toNat - 3) []).getD (256 * count / P) 0#16).toInt)
      ∧ (7 ≤ c.toneNo.toNat → rawSample cfg c P count = 0)

/-- Scaling is floor(floor(w * VOL_CURVE[int_vol] / 256) * VOL_CURVE[master_vol] / 256) and stays in 16 bits; four entries sum within 18 bits (43_waveform.md R190, 43_waveform.md R191).
The floor is the spec's own decision D13: log 15. The bounds are the spec's own inference in R191. -/
def Obligations.ScalingStaysInSampleRange : Prop :=
  (∀ (cfg : Config) (iv mv : BitVec 4) (w : Int), scale cfg iv mv w = w * ((cfg.volCurve.getD iv.toNat 0#9).toNat : Int) / 256 * ((cfg.volCurve.getD mv.toNat 0#9).toNat : Int) / 256)
  ∧ (∀ (cfg : Config) (iv mv : BitVec 4) (w : Int), configLegal cfg = true → -32768 ≤ w → w ≤ 32767 →
    (-32768 ≤ w * ((cfg.volCurve.getD iv.toNat 0#9).toNat : Int) / 256 ∧ w * ((cfg.volCurve.getD iv.toNat 0#9).toNat : Int) / 256 ≤ 32767)
    ∧ -32768 ≤ scale cfg iv mv w ∧ scale cfg iv mv w ≤ 32767
    ∧ (BitVec.ofInt 16 (scale cfg iv mv w)).toInt = scale cfg iv mv w)
  ∧ ∀ (s : State) (i : Nat), -131072 ≤ mixSum s i ∧ mixSum s i ≤ 131068

/-- A sample step of a resting channel writes 0, keeps the phase accumulator and counts the sample (43_waveform.md R188, 44_mixer_driver.md R203, 44_mixer_driver.md R200).
The zero entry of a rest and the order of the channels are the spec's own decisions D16 and D36: log 15.
The sentinel 0 is the spec's own decision D5: log 15. -/
def Obligations.RestSampleWritesZero : Prop :=
  ∀ s : State, s.phase = .sample → s.idx < 1200 → (s.channels.get s.chan).frValue = 0#16 →
    ∃ t, step s = .next t
      ∧ t.readBuf s.chan s.idx = 0#16
      ∧ (∀ ch a, ch ≠ s.chan ∨ a ≠ s.idx → t.readBuf ch a = s.readBuf ch a)
      ∧ t.channels = s.channels.set s.chan { s.channels.get s.chan with
          slicePos := BitVec.ofNat 32 (min ((s.channels.get s.chan).slicePos.toNat + 1) 4294967295) }
      ∧ (t.phase, t.chan, t.idx) = (if (s.channels.get s.chan).len.toNat ≤ min ((s.channels.get s.chan).slicePos.toNat + 1) 4294967295
          then (.parse, s.chan, s.idx) else placeAfterSample s.cfg.nTick s.chan s.idx)
      ∧ t.mml = s.mml ∧ t.cfg = s.cfg ∧ t.masterVol = s.masterVol ∧ t.skipCounter = s.skipCounter ∧ t.wtReady = s.wtReady
      ∧ t.sent = s.sent ∧ t.hostQueue = s.hostQueue ∧ t.sinkStatus = s.sinkStatus ∧ t.replies = s.replies

/-- A sample step of a sounding channel writes floor(floor(w * VOL_CURVE[int_vol] / 256) * VOL_CURVE[master_vol] / 256), w generated (44_mixer_driver.md R203, 43_waveform.md R180, 43_waveform.md R190, 44_mixer_driver.md R200).
The floor of the shifts and the order of the channels are the spec's own decisions D13 and D36: log 15.
The sentinel 0 is the spec's own decision D5: log 15. -/
def Obligations.ToneSampleIsScaledWave : Prop :=
  ∀ s : State, s.phase = .sample → s.idx < 1200 → (s.channels.get s.chan).frValue ≠ 0#16 →
    ∃ t, step s = .next t
      ∧ t.readBuf s.chan s.idx = BitVec.ofInt 16 ((wave s.cfg (s.channels.get s.chan)).1
          * ((s.cfg.volCurve.getD (s.channels.get s.chan).intVol.toNat 0#9).toNat : Int) / 256
          * ((s.cfg.volCurve.getD s.masterVol.toNat 0#9).toNat : Int) / 256)
      ∧ (∀ ch a, ch ≠ s.chan ∨ a ≠ s.idx → t.readBuf ch a = s.readBuf ch a)
      ∧ t.channels = s.channels.set s.chan { s.channels.get s.chan with
          slicePos := BitVec.ofNat 32 (min ((s.channels.get s.chan).slicePos.toNat + 1) 4294967295)
          frCounter := (wave s.cfg (s.channels.get s.chan)).2 }
      ∧ (t.phase, t.chan, t.idx) = (if (s.channels.get s.chan).len.toNat ≤ min ((s.channels.get s.chan).slicePos.toNat + 1) 4294967295
          then (.parse, s.chan, s.idx) else placeAfterSample s.cfg.nTick s.chan s.idx)
      ∧ t.mml = s.mml ∧ t.cfg = s.cfg ∧ t.masterVol = s.masterVol ∧ t.skipCounter = s.skipCounter ∧ t.wtReady = s.wtReady
      ∧ t.sent = s.sent ∧ t.hostQueue = s.hostQueue ∧ t.sinkStatus = s.sinkStatus ∧ t.replies = s.replies

/-- A frame word holds the floor of the sum of the four voices by 4 in both halves (44_mixer_driver.md R204, 44_mixer_driver.md R205, 20_memory.md R74).
The floor and the equal halves are the spec's own decisions D14 and D15: log 15. -/
def Obligations.FrameWordIsTheMeanTwice : Prop :=
  ∀ (s : State) (i : Nat),
    ((frameAt s i).extractLsb' 16 16).toInt
      = ((s.readBuf .ch0 i).toInt + (s.readBuf .ch1 i).toInt + (s.readBuf .ch2 i).toInt + (s.readBuf .ch3 i).toInt) / 4
    ∧ ((frameAt s i).extractLsb' 0 16).toInt
      = ((s.readBuf .ch0 i).toInt + (s.readBuf .ch1 i).toInt + (s.readBuf .ch2 i).toInt + (s.readBuf .ch3 i).toInt) / 4

/-- A query that reads bit 3 or bit 2 set waits; one that reads both clear sends the frame (44_mixer_driver.md R207, 44_mixer_driver.md R206).
The list of the sink's answers is the model's form of the oracle: log 4; that either bit means busy is the spec's own decision D32: log 15. -/
def Obligations.PollWaitsWhileBusy : Prop :=
  ∀ (s : State) (status : Nat) (later : List Nat), s.phase = .mix → s.idx < 1200 → s.sinkStatus = status :: later →
    ((status.testBit 3 = true ∨ status.testBit 2 = true) → step s = .next { s with sinkStatus := later })
    ∧ ((status.testBit 3 = false ∧ status.testBit 2 = false) → step s = .next (if s.idx + 1 < s.cfg.nTick then
        { s with sinkStatus := later, sent := s.sent ++ [frameAt s s.idx], idx := s.idx + 1 } else
        { s with sinkStatus := later, sent := s.sent ++ [frameAt s s.idx], phase := .idle, chan := .ch0, idx := 0 }))

/-- With a ready sink the mix sends exactly N_TICK frames, in ascending index, and ends the tick (44_mixer_driver.md R208, 44_mixer_driver.md R204, 44_mixer_driver.md R207).
The list of the sink's answers is the model's form of the oracle: log 4.
The frame's floor and equal halves and the busy predicate are the spec's own decisions D14, D15 and D32: log 15. R208 is the spec's own inference. -/
def Obligations.MixSendsEveryFrameInOrder : Prop :=
  ∀ (s : State) (ready later : List Nat), s.phase = .mix → s.idx = 0 → 1 ≤ s.cfg.nTick → s.cfg.nTick ≤ 1200 →
    s.sinkStatus = ready ++ later → ready.length = s.cfg.nTick → (∀ status ∈ ready, busy status = false) →
    runSteps s.cfg.nTick s = .next { s with phase := .idle, chan := .ch0, idx := 0, sinkStatus := later, sent := s.sent ++ (List.range s.cfg.nTick).map (frameAt s) }

/-- A sink that stays busy hangs the tick: nothing changes but the answers used up, for ever (44_mixer_driver.md R207, 60_exceptions.md R243, 70_reset_and_hazards.md R282).
That a list of answers that is used up goes on as busy is the model's choice: log 4.
That either bit means busy is the spec's own decision D32: log 15. -/
def Obligations.SinkNeverReadyHangs : Prop :=
  ∀ s : State, s.phase = .mix → s.idx < 1200 → (∀ status ∈ s.sinkStatus, busy status = true) → SinkHang s

/-- TICK sets wt_ready; a positive skip counter is decremented and the tick is over, else the first prologue follows (44_mixer_driver.md R200, 44_mixer_driver.md R201, 44_mixer_driver.md R209).
The queue of transactions is the model's choice: log 3.
The channel order and the flag wt_ready are the spec's own decisions D36 and D41: log 15. -/
def Obligations.TickStartsOrIsSkipped : Prop :=
  ∀ (s : State) (later : List Transaction), s.phase = .idle → configLegal s.cfg = true → s.hostQueue = .tick :: later →
    (0 < s.skipCounter.toNat → step s = .next { s with hostQueue := later, wtReady := true, skipCounter := s.skipCounter - 1#32 })
    ∧ (s.skipCounter = 0#32 → step s = .next { s with hostQueue := later, wtReady := true, phase := .prologue, chan := .ch0, idx := 0 })

/-- n ticks with skip_counter at least n are skipped: nothing but the counter and wt_ready changes; the next one runs (44_mixer_driver.md R201, 44_mixer_driver.md R200).
The queue of transactions is the model's choice: log 3.
The channel order and the flag wt_ready are the spec's own decisions D36 and D41: log 15. -/
def Obligations.SkippedTicksOnlyCountDown : Prop :=
  ∀ (s : State) (n : Nat) (later : List Transaction), s.phase = .idle → configLegal s.cfg = true → 1 ≤ n →
    s.hostQueue = List.replicate n .tick ++ later → n ≤ s.skipCounter.toNat →
    runSteps n s = .next { s with hostQueue := later, wtReady := true, skipCounter := BitVec.ofNat 32 (s.skipCounter.toNat - n) }
    ∧ ∀ rest : List Transaction, later = .tick :: rest → s.skipCounter.toNat = n →
        runSteps (n + 1) s = .next { s with
          hostQueue := rest, wtReady := true, skipCounter := 0#32, phase := .prologue, chan := .ch0, idx := 0 }

/-- RESET puts every register, global and program memory at its reset value and leaves the sink alone (45_host_interface.md R220, 10_state.md R53).
The queue of transactions is the model's choice: log 3; the reset values are the spec's own decisions D24 and D25: log 15.
The padding with 0x00 and the reset of master_vol are D26 and D34: log 15. -/
def Obligations.ResetTransactionRestores : Prop :=
  ∀ (s : State) (later : List Transaction), s.phase = .idle → configLegal s.cfg = true → s.hostQueue = .reset :: later →
    ∃ t, step s = .next t ∧ (∀ ch, t.channels.get ch = Channel.reset)
      ∧ (∀ ch a, a < 512 → t.readMml ch a = (s.cfg.defaultMml.get ch).getD a 0x00#8)
      ∧ t.skipCounter = 0#32 ∧ t.masterVol = 15#4 ∧ t.wtReady = false ∧ t.phase = .idle ∧ t.cfg = s.cfg
      ∧ t.hostQueue = later ∧ t.sinkStatus = s.sinkStatus ∧ t.sent = s.sent ∧ t.replies = s.replies

/-- LOAD_MML stores the first 512 bytes, fills with 0x00, resets that channel, and leaves the rest (45_host_interface.md R222, 20_memory.md R61).
The queue of transactions is the model's choice: log 3; the channel's reset is the spec's own decision D27: log 15.
The 512 bytes and the fill with 0x00 are the spec's own decision D26: log 15. -/
def Obligations.LoadMmlStoresAndResetsOneChannel : Prop :=
  ∀ (s : State) (later : List Transaction) (ch : ChannelId) (text : List Byte), s.phase = .idle → configLegal s.cfg = true → s.hostQueue = (.loadMml ch text) :: later →
    ∃ t, step s = .next t ∧ (∀ a, a < 512 → t.readMml ch a = text.getD a 0x00#8) ∧ (∀ a, 512 ≤ a → t.readMml ch a = 0x00#8)
      ∧ t.channels.get ch = Channel.reset
      ∧ (∀ other, other ≠ ch → t.channels.get other = s.channels.get other ∧ ∀ a, t.readMml other a = s.readMml other a)
      ∧ (∀ other a, t.readBuf other a = s.readBuf other a) ∧ t.phase = .idle
      ∧ t.skipCounter = s.skipCounter ∧ t.masterVol = s.masterVol ∧ t.wtReady = s.wtReady ∧ t.cfg = s.cfg
      ∧ t.hostQueue = later ∧ t.sinkStatus = s.sinkStatus ∧ t.sent = s.sent ∧ t.replies = s.replies

/-- SET_VOLUME stores at most 15, GET_VOLUME returns master_vol, SET_SKIP replaces the counter (45_host_interface.md R223, 45_host_interface.md R224, 45_host_interface.md R225).
The clamp and SET_SKIP are the spec's own decisions D33 and D34, and the queue of transactions is the model's choice: logs 3 and 15. -/
def Obligations.VolumeAndSkipTransactions : Prop :=
  (∀ (s : State) (later : List Transaction) (v : Nat), s.phase = .idle → configLegal s.cfg = true → s.hostQueue = (.setVolume v) :: later →
    step s = .next { s with hostQueue := later, masterVol := BitVec.ofNat 4 (min v 15) })
  ∧ (∀ (s : State) (later : List Transaction), s.phase = .idle → configLegal s.cfg = true → s.hostQueue = .getVolume :: later →
    step s = .next { s with hostQueue := later, replies := s.replies ++ [s.masterVol] })
  ∧ ∀ (s : State) (later : List Transaction) (n : Word), s.phase = .idle → configLegal s.cfg = true → s.hostQueue = (.setSkip n) :: later →
    step s = .next { s with hostQueue := later, skipCounter := n }

/-- During a tick no transaction is taken and nothing the host owns changes; no step changes a ROM; an illegal configuration is refused (45_host_interface.md R221, 20_memory.md R61, 60_exceptions.md R255, 10_state.md R49, 45_host_interface.md R227, 93_implementation_defined.md U11, 93_implementation_defined.md U12, 00_scope.md R8, 20_memory.md R64, 20_memory.md R66, 20_memory.md R67).
That an idle block with an empty queue holds its state is the model's choice: log 3.
The transaction discipline is the spec's own decision D1: log 15.
That a configuration is refused when a transaction is taken, and not before, is the model's choice: log 2. -/
def Obligations.OnlyTheIdleBlockTakesTransactions : Prop :=
  (∀ s t : State, s.phase ≠ .idle → step s = .next t →
    t.hostQueue = s.hostQueue ∧ t.mml = s.mml ∧ t.skipCounter = s.skipCounter ∧ t.masterVol = s.masterVol
    ∧ t.wtReady = s.wtReady ∧ t.cfg = s.cfg ∧ t.replies = s.replies)
  ∧ (∀ s : State, s.phase = .idle → s.hostQueue = [] → step s = .next s)
  ∧ (∀ s t : State, step s = .next t → t.cfg = s.cfg)
  ∧ (∀ cfg : Config, configLegal cfg = true ↔ LegalConfig cfg)
  ∧ ∀ (s : State) (tr : Transaction) (later : List Transaction), s.phase = .idle → configLegal s.cfg = false →
      s.hostQueue = tr :: later → step s = .refused .illegalConfiguration

/-- The state after reset: every register, global, program memory and ROM at the value the spec's tables give (10_state.md R53, 70_reset_and_hazards.md R270, 00_scope.md R8, 20_memory.md R65, 20_memory.md R66, 20_memory.md R68, 20_memory.md R69, 20_memory.md R70, 20_memory.md R71).
The reset values are the spec's own decisions D24 and D25: log 15.
The reset of master_vol is D34, the flag wt_ready D41, the fill with 0x00 D26: log 15.
The ROM fills and N_TICK are the spec's own decisions D2, D6, D7 and D8 (general knowledge G1, G2 and G6), the default fills of logs 2 and 15. -/
def Obligations.ResetStateValues : Prop :=
  (∀ ch, State.reset.channels.get ch =
    { mmlPos := 0#10, frValue := 0#16, frTune := 0#32, frCounter := 0#32, len := 0#32, slicePos := 0#32, framePos := 0#32,
      tempo := 120#16, defKeylen := 4#16, defLen := 1440000#32, octave := 4#3, localVol := 15#4, intVol := 15#4,
      toneRate := 8#4, pwmRate := 50#7, envNo := 0#8, envLen := 1#16, toneNo := 0#8, pitchNo := 0#8, tuneDepth := 0#16,
      tie := false })
  ∧ State.reset.skipCounter = 0#32 ∧ State.reset.masterVol = 15#4 ∧ State.reset.wtReady = false
  ∧ (∀ ch a, State.reset.readMml ch a = if a = 0 then 0x72#8 else 0x00#8)
  ∧ State.reset.cfg.nTick = 800
  ∧ State.reset.cfg.notePeriod.map (·.toNat) = listedPeriods
  ∧ State.reset.cfg.volCurve.map (·.toNat) = (List.range 16).map (fun v => (256 * v * v + 112) / 225)
  ∧ State.reset.cfg.wavetable.length = 4
  ∧ (State.reset.cfg.wavetable.getD 0 []).map (·.toInt) = (List.range 256).map triangleOf
  ∧ (State.reset.cfg.wavetable.getD 1 []).map (·.toInt) = listedSine ++ listedSine.map (fun v => -v)
  ∧ (State.reset.cfg.wavetable.getD 2 []).map (·.toInt) = (List.range 256).map (fun i => 256 * ((i : Int) - 128))
  ∧ (State.reset.cfg.wavetable.getD 3 []).length = 256
  ∧ (State.reset.cfg.wavetable.getD 3 [])[0]? = some (lfsrStep 0xACE1#16)
  ∧ ∀ i < 255, (State.reset.cfg.wavetable.getD 3 [])[i + 1]? = (State.reset.cfg.wavetable.getD 3 [])[i]?.map lfsrStep

/-- The invariant holds after reset (10_state.md R50).
The default configuration and the model's own fields at reset are logs 2 and 11.
But for its clause (a), R50 is the spec's own inference. -/
def Obligations.ResetHasTheInvariant : Prop :=
  Inv State.reset

/-- Every step keeps the invariant of 10_state.md R50 (10_state.md R50, 10_state.md R21, 10_state.md R30).
The invariant adds the model's own clauses: a legal configuration, canonical memories and a sample index inside the tick (logs 2, 7 and 13).
But for its clause (a), R50 is the spec's own inference; the widths and bounds are its own decision D17: log 15. -/
def Obligations.StepKeepsTheInvariant : Prop :=
  ∀ s t : State, Inv s → step s = .next t → Inv t

/-- No step from a state with the invariant faults or is refused: the block has no fault outcome (60_exceptions.md R240, 20_memory.md R77).
The model's faults stand for indices outside the spec's spaces: log 7.
R77 is the spec's own inference. -/
def Obligations.NoFaultUnderTheInvariant : Prop :=
  ∀ s : State, Inv s → ∃ t, step s = .next t

/-- A text with no note and no rest hangs the parser for ever (41_mml_commands.md R148, 70_reset_and_hazards.md R283).
A hang is endless stepping: log 8; R148 is the spec's own inference.
That the block does not detect the hang is the spec's own decision D35: log 15. R283 is its own inference. -/
def Obligations.TextWithoutNotesHangsTheParser : Prop :=
  ∀ s : State, Inv s → s.phase = .parse → ¬ Playable (s.mml.get s.chan) → ParserHang s

/-- A text with a note or a rest ends every parser run within 1026 tokens (41_mml_commands.md R130, 41_mml_commands.md R131, 70_reset_and_hazards.md R276).
The bound of 1026 steps is the model's own count: log 1.
R276 is the spec's own inference. -/
def Obligations.TextWithANoteEndsTheParse : Prop :=
  ∀ s : State, Inv s → s.phase = .parse → Playable (s.mml.get s.chan) →
    ∃ n t, n ≤ 1026 ∧ runSteps n s = .next t ∧ t.phase ≠ .parse ∧ t.sent = s.sent

/-- A tick that is not skipped completes and sends exactly N_TICK frames, if every text has a note or a rest and the sink is ready (44_mixer_driver.md R200, 44_mixer_driver.md R208, 70_reset_and_hazards.md R276).
The queue of transactions and the list of the sink's answers are the model's choices: logs 3 and 4.
The channel order is the spec's own decision D36: log 15. R208 and R276 are its own inferences. -/
def Obligations.TickCompletesWithReadySink : Prop :=
  ∀ (s : State) (later : List Transaction) (ready more : List Nat), Inv s → s.phase = .idle → s.hostQueue = .tick :: later →
    s.skipCounter = 0#32 → (∀ ch, Playable (s.mml.get ch)) → s.sinkStatus = ready ++ more → ready.length = s.cfg.nTick →
    (∀ status ∈ ready, busy status = false) →
    ∃ n t frames, runSteps n s = .next t ∧ t.phase = .idle ∧ t.hostQueue = later ∧ t.sent = s.sent ++ frames
      ∧ frames.length = s.cfg.nTick ∧ t.sinkStatus = more ∧ t.wtReady = true ∧ t.mml = s.mml
      ∧ t.skipCounter = s.skipCounter ∧ t.masterVol = s.masterVol

/-- What a channel does in a tick depends on its own registers and memories and the read-only parts alone (60_exceptions.md R253, 10_state.md R20). -/
def Obligations.ChannelsDoNotInterfere : Prop :=
  ∀ s s' t : State, SamePlace s s' → SameVoice s.chan s s' → s.phase ≠ .idle → s.phase ≠ .mix → step s = .next t →
    ∃ t', step s' = .next t' ∧ SamePlace t t' ∧ SameVoice s.chan t t'

/-- A step inside a tick leaves the registers and frame buffers of the other channels, and sends nothing outside the mix (10_state.md R20, 44_mixer_driver.md R207). -/
def Obligations.OtherChannelsAreUntouched : Prop :=
  ∀ s t : State, s.phase ≠ .idle → step s = .next t →
    (s.phase ≠ .mix → t.sent = s.sent ∧ t.sinkStatus = s.sinkStatus
      ∧ ∀ ch, ch ≠ s.chan → t.channels.get ch = s.channels.get ch ∧ ∀ a, t.readBuf ch a = s.readBuf ch a)
    ∧ (s.phase = .mix → t.channels = s.channels ∧ ∀ ch a, t.readBuf ch a = s.readBuf ch a)
end

