-- ==== Sys2Proof/Laws/Decode.lean ====
section
/-! SUPPORT. The laws of the suffix scanners: each takes back exactly the bytes the encoder wrote, and no
byte that cannot belong to a suffix. -/

namespace Sys2Proof

open Machine

/-- The first byte of a text, if there is one, is none that `takes` names. -/
abbrev HeadFree (takes : Byte → Bool) (rest : List Byte) : Prop := ∀ byte, rest.head? = some byte → takes byte = false

theorem isDigitByte_encode {n : Nat} (h : n < 10) : isDigitByte (BitVec.ofNat 8 (0x30 + n)) = true := by
  simp only [isDigitByte, BitVec.toNat_ofNat, Bool.and_eq_true, decide_eq_true_eq]; omega

/-- Where a note would take no more, a rest with the same dot would not either. -/
theorem headFree_rest_of_note {acc : Accidental} {digits : List Nat} {dot : Bool} {rest : List Byte}
    (h : HeadFree (noteTakes acc digits dot) rest) : HeadFree (restTakes dot) rest := fun byte hb => by
  have hn := h byte hb
  simp only [noteTakes, Bool.or_eq_false_iff] at hn
  exact hn.1

/-- The dot scanner takes back an encoded dot, and no second one. -/
theorem takeDot_encode (dot : Bool) {rest : List Byte} (h : HeadFree (restTakes dot) rest) :
    takeDot (encodeDot dot ++ rest) = (dot, rest) := by
  cases dot with
  | true => rfl
  | false =>
    cases rest with
    | nil => rfl
    | cons byte rest =>
      have hb := h byte rfl
      simp only [restTakes, Bool.not_false, Bool.true_and, Bool.or_eq_false_iff, beq_eq_false_iff_ne, ne_eq] at hb
      simp [encodeDot, takeDot, hb.2]

theorem takeDigits_stop {rest : List Byte} (h : HeadFree isDigitByte rest) : takeDigits rest = ([], rest) := by
  cases rest with
  | nil => rfl
  | cons byte rest => simp [takeDigits, h byte rfl]

/-- The digit scanner takes back an encoded run of digits. -/
theorem takeDigits_encode (digits : List Nat) (hd : digitsOk digits = true) {rest : List Byte} (h : HeadFree isDigitByte rest) :
    takeDigits (encodeDigits digits ++ rest) = (digits, rest) := by
  induction digits with
  | nil => exact takeDigits_stop h
  | cons n digits ih =>
    simp only [digitsOk, List.all_cons, Bool.and_eq_true, decide_eq_true_eq] at hd ih
    have hrun := ih hd.2
    simp only [encodeDigits, List.map_cons, List.cons_append] at hrun ⊢
    simp only [takeDigits, isDigitByte_encode hd.1, if_true, hrun, BitVec.toNat_ofNat]
    rw [show (48 + n) % 2 ^ 8 - 48 = n by omega]

/-- After an encoded dot, or without one before a byte the token would not take, no digit follows. -/
theorem encodeDot_head (dot : Bool) {rest : List Byte} (h : HeadFree (restTakes dot) rest) :
    HeadFree isDigitByte (encodeDot dot ++ rest) := by
  cases dot with
  | false =>
    intro byte hb
    have hn := h byte hb
    simp only [restTakes, Bool.not_false, Bool.true_and, Bool.or_eq_false_iff] at hn
    exact hn.1
  | true =>
    intro byte hb
    simp only [encodeDot, if_true, List.cons_append, List.head?_cons, Option.some.injEq] at hb
    subst hb; decide

/-- The accidental scanner takes back an encoded accidental, and no second one: after it come a digit, a dot, or
a byte the note would not take. -/
theorem takeAccidental_encode (acc : Accidental) (digits : List Nat) (hd : digitsOk digits = true) (dot : Bool)
    {rest : List Byte} (h : HeadFree (noteTakes acc digits dot) rest) :
    takeAccidental (encodeAccidental acc ++ (encodeDigits digits ++ (encodeDot dot ++ rest)))
      = (acc, encodeDigits digits ++ (encodeDot dot ++ rest)) := by
  cases acc with
  | sharp => rfl
  | plus => rfl
  | flat => rfl
  | natural =>
    show takeAccidental (encodeDigits digits ++ (encodeDot dot ++ rest)) = _
    cases digits with
    | cons n digits =>
      simp only [digitsOk, List.all_cons, Bool.and_eq_true, decide_eq_true_eq] at hd
      have hn : n < 10 := hd.1
      simp only [encodeDigits, List.map_cons, List.cons_append, takeAccidental]
      rw [if_neg, if_neg, if_neg] <;>
        · intro hb
          have := congrArg BitVec.toNat hb
          simp only [BitVec.toNat_ofNat] at this
          omega
    | nil =>
      cases dot with
      | true => rfl
      | false =>
        cases rest with
        | nil => rfl
        | cons byte rest =>
          have hb := h byte rfl
          simp [noteTakes, isAccidentalByte] at hb
          simp [encodeDigits, encodeDot, takeAccidental, hb.2]

/-- A check over the 256 numbers is a check over the bytes: the quick way to a fact about every byte. -/
theorem forall_byte (check : Byte → Bool) (h : (List.range 256).all (fun n => check (BitVec.ofNat 8 n)) = true) (byte : Byte) :
    check byte = true := by
  have hb := List.all_eq_true.1 h byte.toNat (List.mem_range.2 byte.isLt)
  simpa using hb

/-- No byte is selected by two rows of the opcode map (30_encoding.md R97). -/
theorem opcodeMap_disjoint (byte : Byte) : (opcodeMap.filter (·.selects byte)).length ≤ 1 :=
  of_decide_eq_true (forall_byte (fun b => decide ((opcodeMap.filter (·.selects b)).length ≤ 1)) (by decide +kernel) byte)

/-- Whether a row name is SKIP. -/
def isSkipOp : Opcode → Bool
  | .skip => true
  | _ => false

theorem isSkipOp_iff (op : Opcode) : isSkipOp op = true ↔ op = .skip := by cases op <;> simp [isSkipOp]

/-- The SKIP class of 30_encoding.md R98 is what the map of R97 leaves. -/
theorem classify_skip_iff (byte : Byte) : classify byte = .skip ↔ isSkipByte byte = true := by
  have h := forall_byte (fun b => isSkipOp (classify b) == isSkipByte b) (by decide +kernel) byte
  rw [← isSkipOp_iff, beq_iff_eq.1 h]

@[simp] theorem decode_nil : decode [] = (.eos, []) := rfl

end Sys2Proof
end

