-- ==== Sys2Proof/Laws/State.lean ====
section
/-! SUPPORT. The small lemmas of the state's updates: one for each field and update, true by rfl, and the
read-after-write laws of the per-channel parts. -/

namespace Sys2Proof.Machine

@[simp] theorem get_set_same {α : Type} (q : PerChannel α) (ch : ChannelId) (a : α) : (q.set ch a).get ch = a := by
  cases ch <;> rfl

theorem get_set_other {α : Type} (q : PerChannel α) {ch other : ChannelId} (a : α) (h : other ≠ ch) :
    (q.set ch a).get other = q.get other := by
  cases ch <;> cases other <;> first | rfl | exact absurd rfl h

@[simp] theorem set_get_same {α : Type} (q : PerChannel α) (ch : ChannelId) : q.set ch (q.get ch) = q := by
  cases ch <;> rfl

@[simp] theorem get_fill {α : Type} (a : α) (ch : ChannelId) : (PerChannel.fill a).get ch = a := by
  cases ch <;> rfl

@[simp] theorem cur_setCur (s : State) (c : Channel) : (s.setCur c).cur = c := get_set_same s.channels s.chan c

@[simp] theorem setCur_cfg (s : State) (c : Channel) : (s.setCur c).cfg = s.cfg := rfl
@[simp] theorem setCur_channels (s : State) (c : Channel) : (s.setCur c).channels = s.channels.set s.chan c := rfl
@[simp] theorem setCur_mml (s : State) (c : Channel) : (s.setCur c).mml = s.mml := rfl
@[simp] theorem setCur_buf (s : State) (c : Channel) : (s.setCur c).buf = s.buf := rfl
@[simp] theorem setCur_skipCounter (s : State) (c : Channel) : (s.setCur c).skipCounter = s.skipCounter := rfl
@[simp] theorem setCur_masterVol (s : State) (c : Channel) : (s.setCur c).masterVol = s.masterVol := rfl
@[simp] theorem setCur_wtReady (s : State) (c : Channel) : (s.setCur c).wtReady = s.wtReady := rfl
@[simp] theorem setCur_phase (s : State) (c : Channel) : (s.setCur c).phase = s.phase := rfl
@[simp] theorem setCur_chan (s : State) (c : Channel) : (s.setCur c).chan = s.chan := rfl
@[simp] theorem setCur_idx (s : State) (c : Channel) : (s.setCur c).idx = s.idx := rfl
@[simp] theorem setCur_hostQueue (s : State) (c : Channel) : (s.setCur c).hostQueue = s.hostQueue := rfl
@[simp] theorem setCur_sinkStatus (s : State) (c : Channel) : (s.setCur c).sinkStatus = s.sinkStatus := rfl
@[simp] theorem setCur_sent (s : State) (c : Channel) : (s.setCur c).sent = s.sent := rfl
@[simp] theorem setCur_replies (s : State) (c : Channel) : (s.setCur c).replies = s.replies := rfl

@[simp] theorem writeBuf_cfg (s : State) (ch : ChannelId) (i : Nat) (v : Half) : (s.writeBuf ch i v).cfg = s.cfg := rfl
@[simp] theorem writeBuf_channels (s : State) (ch : ChannelId) (i : Nat) (v : Half) : (s.writeBuf ch i v).channels = s.channels := rfl
@[simp] theorem writeBuf_mml (s : State) (ch : ChannelId) (i : Nat) (v : Half) : (s.writeBuf ch i v).mml = s.mml := rfl
@[simp] theorem writeBuf_buf (s : State) (ch : ChannelId) (i : Nat) (v : Half) : (s.writeBuf ch i v).buf = s.buf.set ch ((s.buf.get ch).write i v) := rfl
@[simp] theorem writeBuf_skipCounter (s : State) (ch : ChannelId) (i : Nat) (v : Half) : (s.writeBuf ch i v).skipCounter = s.skipCounter := rfl
@[simp] theorem writeBuf_masterVol (s : State) (ch : ChannelId) (i : Nat) (v : Half) : (s.writeBuf ch i v).masterVol = s.masterVol := rfl
@[simp] theorem writeBuf_wtReady (s : State) (ch : ChannelId) (i : Nat) (v : Half) : (s.writeBuf ch i v).wtReady = s.wtReady := rfl
@[simp] theorem writeBuf_phase (s : State) (ch : ChannelId) (i : Nat) (v : Half) : (s.writeBuf ch i v).phase = s.phase := rfl
@[simp] theorem writeBuf_chan (s : State) (ch : ChannelId) (i : Nat) (v : Half) : (s.writeBuf ch i v).chan = s.chan := rfl
@[simp] theorem writeBuf_idx (s : State) (ch : ChannelId) (i : Nat) (v : Half) : (s.writeBuf ch i v).idx = s.idx := rfl
@[simp] theorem writeBuf_hostQueue (s : State) (ch : ChannelId) (i : Nat) (v : Half) : (s.writeBuf ch i v).hostQueue = s.hostQueue := rfl
@[simp] theorem writeBuf_sinkStatus (s : State) (ch : ChannelId) (i : Nat) (v : Half) : (s.writeBuf ch i v).sinkStatus = s.sinkStatus := rfl
@[simp] theorem writeBuf_sent (s : State) (ch : ChannelId) (i : Nat) (v : Half) : (s.writeBuf ch i v).sent = s.sent := rfl
@[simp] theorem writeBuf_replies (s : State) (ch : ChannelId) (i : Nat) (v : Half) : (s.writeBuf ch i v).replies = s.replies := rfl

@[simp] theorem sendFrame_cfg (s : State) (w : Word) : (s.sendFrame w).cfg = s.cfg := rfl
@[simp] theorem sendFrame_channels (s : State) (w : Word) : (s.sendFrame w).channels = s.channels := rfl
@[simp] theorem sendFrame_mml (s : State) (w : Word) : (s.sendFrame w).mml = s.mml := rfl
@[simp] theorem sendFrame_buf (s : State) (w : Word) : (s.sendFrame w).buf = s.buf := rfl
@[simp] theorem sendFrame_skipCounter (s : State) (w : Word) : (s.sendFrame w).skipCounter = s.skipCounter := rfl
@[simp] theorem sendFrame_masterVol (s : State) (w : Word) : (s.sendFrame w).masterVol = s.masterVol := rfl
@[simp] theorem sendFrame_wtReady (s : State) (w : Word) : (s.sendFrame w).wtReady = s.wtReady := rfl
@[simp] theorem sendFrame_phase (s : State) (w : Word) : (s.sendFrame w).phase = s.phase := rfl
@[simp] theorem sendFrame_chan (s : State) (w : Word) : (s.sendFrame w).chan = s.chan := rfl
@[simp] theorem sendFrame_idx (s : State) (w : Word) : (s.sendFrame w).idx = s.idx := rfl
@[simp] theorem sendFrame_hostQueue (s : State) (w : Word) : (s.sendFrame w).hostQueue = s.hostQueue := rfl
@[simp] theorem sendFrame_sinkStatus (s : State) (w : Word) : (s.sendFrame w).sinkStatus = s.sinkStatus := rfl
@[simp] theorem sendFrame_sent (s : State) (w : Word) : (s.sendFrame w).sent = s.sent ++ [w] := rfl
@[simp] theorem sendFrame_replies (s : State) (w : Word) : (s.sendFrame w).replies = s.replies := rfl

@[simp] theorem advance_mmlPos (c : Channel) (n : Nat) : (c.advance n).mmlPos = c.mmlPos + BitVec.ofNat 10 n := rfl
@[simp] theorem advance_frValue (c : Channel) (n : Nat) : (c.advance n).frValue = c.frValue := rfl
@[simp] theorem advance_frTune (c : Channel) (n : Nat) : (c.advance n).frTune = c.frTune := rfl
@[simp] theorem advance_frCounter (c : Channel) (n : Nat) : (c.advance n).frCounter = c.frCounter := rfl
@[simp] theorem advance_len (c : Channel) (n : Nat) : (c.advance n).len = c.len := rfl
@[simp] theorem advance_slicePos (c : Channel) (n : Nat) : (c.advance n).slicePos = c.slicePos := rfl
@[simp] theorem advance_framePos (c : Channel) (n : Nat) : (c.advance n).framePos = c.framePos := rfl
@[simp] theorem advance_tempo (c : Channel) (n : Nat) : (c.advance n).tempo = c.tempo := rfl
@[simp] theorem advance_defKeylen (c : Channel) (n : Nat) : (c.advance n).defKeylen = c.defKeylen := rfl
@[simp] theorem advance_defLen (c : Channel) (n : Nat) : (c.advance n).defLen = c.defLen := rfl
@[simp] theorem advance_octave (c : Channel) (n : Nat) : (c.advance n).octave = c.octave := rfl
@[simp] theorem advance_localVol (c : Channel) (n : Nat) : (c.advance n).localVol = c.localVol := rfl
@[simp] theorem advance_intVol (c : Channel) (n : Nat) : (c.advance n).intVol = c.intVol := rfl
@[simp] theorem advance_toneRate (c : Channel) (n : Nat) : (c.advance n).toneRate = c.toneRate := rfl
@[simp] theorem advance_pwmRate (c : Channel) (n : Nat) : (c.advance n).pwmRate = c.pwmRate := rfl
@[simp] theorem advance_envNo (c : Channel) (n : Nat) : (c.advance n).envNo = c.envNo := rfl
@[simp] theorem advance_envLen (c : Channel) (n : Nat) : (c.advance n).envLen = c.envLen := rfl
@[simp] theorem advance_toneNo (c : Channel) (n : Nat) : (c.advance n).toneNo = c.toneNo := rfl
@[simp] theorem advance_pitchNo (c : Channel) (n : Nat) : (c.advance n).pitchNo = c.pitchNo := rfl
@[simp] theorem advance_tuneDepth (c : Channel) (n : Nat) : (c.advance n).tuneDepth = c.tuneDepth := rfl
@[simp] theorem advance_tie (c : Channel) (n : Nat) : (c.advance n).tie = c.tie := rfl

@[simp] theorem setTie_mmlPos (c : Channel) : (c.setTie).mmlPos = c.mmlPos := rfl
@[simp] theorem setTie_frValue (c : Channel) : (c.setTie).frValue = c.frValue := rfl
@[simp] theorem setTie_frTune (c : Channel) : (c.setTie).frTune = c.frTune := rfl
@[simp] theorem setTie_frCounter (c : Channel) : (c.setTie).frCounter = c.frCounter := rfl
@[simp] theorem setTie_len (c : Channel) : (c.setTie).len = c.len := rfl
@[simp] theorem setTie_slicePos (c : Channel) : (c.setTie).slicePos = c.slicePos := rfl
@[simp] theorem setTie_framePos (c : Channel) : (c.setTie).framePos = c.framePos := rfl
@[simp] theorem setTie_tempo (c : Channel) : (c.setTie).tempo = c.tempo := rfl
@[simp] theorem setTie_defKeylen (c : Channel) : (c.setTie).defKeylen = c.defKeylen := rfl
@[simp] theorem setTie_defLen (c : Channel) : (c.setTie).defLen = c.defLen := rfl
@[simp] theorem setTie_octave (c : Channel) : (c.setTie).octave = c.octave := rfl
@[simp] theorem setTie_localVol (c : Channel) : (c.setTie).localVol = c.localVol := rfl
@[simp] theorem setTie_intVol (c : Channel) : (c.setTie).intVol = c.intVol := rfl
@[simp] theorem setTie_toneRate (c : Channel) : (c.setTie).toneRate = c.toneRate := rfl
@[simp] theorem setTie_pwmRate (c : Channel) : (c.setTie).pwmRate = c.pwmRate := rfl
@[simp] theorem setTie_envNo (c : Channel) : (c.setTie).envNo = c.envNo := rfl
@[simp] theorem setTie_envLen (c : Channel) : (c.setTie).envLen = c.envLen := rfl
@[simp] theorem setTie_toneNo (c : Channel) : (c.setTie).toneNo = c.toneNo := rfl
@[simp] theorem setTie_pitchNo (c : Channel) : (c.setTie).pitchNo = c.pitchNo := rfl
@[simp] theorem setTie_tuneDepth (c : Channel) : (c.setTie).tuneDepth = c.tuneDepth := rfl
@[simp] theorem setTie_tie (c : Channel) : (c.setTie).tie = true := rfl

@[simp] theorem bindTie_mmlPos (c : Channel) (d : Word) : (c.bindTie d).mmlPos = c.mmlPos := rfl
@[simp] theorem bindTie_frValue (c : Channel) (d : Word) : (c.bindTie d).frValue = c.frValue := rfl
@[simp] theorem bindTie_frTune (c : Channel) (d : Word) : (c.bindTie d).frTune = c.frTune := rfl
@[simp] theorem bindTie_frCounter (c : Channel) (d : Word) : (c.bindTie d).frCounter = c.frCounter := rfl
@[simp] theorem bindTie_len (c : Channel) (d : Word) : (c.bindTie d).len = sat32 (c.len.toNat + d.toNat) := rfl
@[simp] theorem bindTie_slicePos (c : Channel) (d : Word) : (c.bindTie d).slicePos = c.slicePos := rfl
@[simp] theorem bindTie_framePos (c : Channel) (d : Word) : (c.bindTie d).framePos = c.framePos := rfl
@[simp] theorem bindTie_tempo (c : Channel) (d : Word) : (c.bindTie d).tempo = c.tempo := rfl
@[simp] theorem bindTie_defKeylen (c : Channel) (d : Word) : (c.bindTie d).defKeylen = c.defKeylen := rfl
@[simp] theorem bindTie_defLen (c : Channel) (d : Word) : (c.bindTie d).defLen = c.defLen := rfl
@[simp] theorem bindTie_octave (c : Channel) (d : Word) : (c.bindTie d).octave = c.octave := rfl
@[simp] theorem bindTie_localVol (c : Channel) (d : Word) : (c.bindTie d).localVol = c.localVol := rfl
@[simp] theorem bindTie_intVol (c : Channel) (d : Word) : (c.bindTie d).intVol = c.intVol := rfl
@[simp] theorem bindTie_toneRate (c : Channel) (d : Word) : (c.bindTie d).toneRate = c.toneRate := rfl
@[simp] theorem bindTie_pwmRate (c : Channel) (d : Word) : (c.bindTie d).pwmRate = c.pwmRate := rfl
@[simp] theorem bindTie_envNo (c : Channel) (d : Word) : (c.bindTie d).envNo = c.envNo := rfl
@[simp] theorem bindTie_envLen (c : Channel) (d : Word) : (c.bindTie d).envLen = c.envLen := rfl
@[simp] theorem bindTie_toneNo (c : Channel) (d : Word) : (c.bindTie d).toneNo = c.toneNo := rfl
@[simp] theorem bindTie_pitchNo (c : Channel) (d : Word) : (c.bindTie d).pitchNo = c.pitchNo := rfl
@[simp] theorem bindTie_tuneDepth (c : Channel) (d : Word) : (c.bindTie d).tuneDepth = c.tuneDepth := rfl
@[simp] theorem bindTie_tie (c : Channel) (d : Word) : (c.bindTie d).tie = false := rfl

@[simp] theorem startNote_mmlPos (c : Channel) (d : Word) : (c.startNote d).mmlPos = c.mmlPos := rfl
@[simp] theorem startNote_frValue (c : Channel) (d : Word) : (c.startNote d).frValue = c.frValue := rfl
@[simp] theorem startNote_frTune (c : Channel) (d : Word) : (c.startNote d).frTune = 0#32 := rfl
@[simp] theorem startNote_frCounter (c : Channel) (d : Word) : (c.startNote d).frCounter = 0#32 := rfl
@[simp] theorem startNote_len (c : Channel) (d : Word) : (c.startNote d).len = d := rfl
@[simp] theorem startNote_slicePos (c : Channel) (d : Word) : (c.startNote d).slicePos = 0#32 := rfl
@[simp] theorem startNote_framePos (c : Channel) (d : Word) : (c.startNote d).framePos = 0#32 := rfl
@[simp] theorem startNote_tempo (c : Channel) (d : Word) : (c.startNote d).tempo = c.tempo := rfl
@[simp] theorem startNote_defKeylen (c : Channel) (d : Word) : (c.startNote d).defKeylen = c.defKeylen := rfl
@[simp] theorem startNote_defLen (c : Channel) (d : Word) : (c.startNote d).defLen = c.defLen := rfl
@[simp] theorem startNote_octave (c : Channel) (d : Word) : (c.startNote d).octave = c.octave := rfl
@[simp] theorem startNote_localVol (c : Channel) (d : Word) : (c.startNote d).localVol = c.localVol := rfl
@[simp] theorem startNote_intVol (c : Channel) (d : Word) : (c.startNote d).intVol = c.localVol := rfl
@[simp] theorem startNote_toneRate (c : Channel) (d : Word) : (c.startNote d).toneRate = c.toneRate := rfl
@[simp] theorem startNote_pwmRate (c : Channel) (d : Word) : (c.startNote d).pwmRate = c.pwmRate := rfl
@[simp] theorem startNote_envNo (c : Channel) (d : Word) : (c.startNote d).envNo = c.envNo := rfl
@[simp] theorem startNote_envLen (c : Channel) (d : Word) : (c.startNote d).envLen = c.envLen := rfl
@[simp] theorem startNote_toneNo (c : Channel) (d : Word) : (c.startNote d).toneNo = c.toneNo := rfl
@[simp] theorem startNote_pitchNo (c : Channel) (d : Word) : (c.startNote d).pitchNo = c.pitchNo := rfl
@[simp] theorem startNote_tuneDepth (c : Channel) (d : Word) : (c.startNote d).tuneDepth = c.tuneDepth := rfl
@[simp] theorem startNote_tie (c : Channel) (d : Word) : (c.startNote d).tie = c.tie := rfl

/-! The engine's place is all that `nextSample` and `nextFrame` change. -/

@[simp] theorem nextSample_cfg (s : State) : s.nextSample.cfg = s.cfg := by
  unfold State.nextSample; repeat' split
  all_goals rfl

@[simp] theorem nextSample_channels (s : State) : s.nextSample.channels = s.channels := by
  unfold State.nextSample; repeat' split
  all_goals rfl

@[simp] theorem nextSample_mml (s : State) : s.nextSample.mml = s.mml := by
  unfold State.nextSample; repeat' split
  all_goals rfl

@[simp] theorem nextSample_buf (s : State) : s.nextSample.buf = s.buf := by
  unfold State.nextSample; repeat' split
  all_goals rfl

@[simp] theorem nextSample_skipCounter (s : State) : s.nextSample.skipCounter = s.skipCounter := by
  unfold State.nextSample; repeat' split
  all_goals rfl

@[simp] theorem nextSample_masterVol (s : State) : s.nextSample.masterVol = s.masterVol := by
  unfold State.nextSample; repeat' split
  all_goals rfl

@[simp] theorem nextSample_wtReady (s : State) : s.nextSample.wtReady = s.wtReady := by
  unfold State.nextSample; repeat' split
  all_goals rfl

@[simp] theorem nextSample_hostQueue (s : State) : s.nextSample.hostQueue = s.hostQueue := by
  unfold State.nextSample; repeat' split
  all_goals rfl

@[simp] theorem nextSample_sinkStatus (s : State) : s.nextSample.sinkStatus = s.sinkStatus := by
  unfold State.nextSample; repeat' split
  all_goals rfl

@[simp] theorem nextSample_sent (s : State) : s.nextSample.sent = s.sent := by
  unfold State.nextSample; repeat' split
  all_goals rfl

@[simp] theorem nextSample_replies (s : State) : s.nextSample.replies = s.replies := by
  unfold State.nextSample; repeat' split
  all_goals rfl

@[simp] theorem nextFrame_cfg (s : State) : s.nextFrame.cfg = s.cfg := by
  unfold State.nextFrame; repeat' split
  all_goals rfl

@[simp] theorem nextFrame_channels (s : State) : s.nextFrame.channels = s.channels := by
  unfold State.nextFrame; repeat' split
  all_goals rfl

@[simp] theorem nextFrame_mml (s : State) : s.nextFrame.mml = s.mml := by
  unfold State.nextFrame; repeat' split
  all_goals rfl

@[simp] theorem nextFrame_buf (s : State) : s.nextFrame.buf = s.buf := by
  unfold State.nextFrame; repeat' split
  all_goals rfl

@[simp] theorem nextFrame_skipCounter (s : State) : s.nextFrame.skipCounter = s.skipCounter := by
  unfold State.nextFrame; repeat' split
  all_goals rfl

@[simp] theorem nextFrame_masterVol (s : State) : s.nextFrame.masterVol = s.masterVol := by
  unfold State.nextFrame; repeat' split
  all_goals rfl

@[simp] theorem nextFrame_wtReady (s : State) : s.nextFrame.wtReady = s.wtReady := by
  unfold State.nextFrame; repeat' split
  all_goals rfl

@[simp] theorem nextFrame_hostQueue (s : State) : s.nextFrame.hostQueue = s.hostQueue := by
  unfold State.nextFrame; repeat' split
  all_goals rfl

@[simp] theorem nextFrame_sinkStatus (s : State) : s.nextFrame.sinkStatus = s.sinkStatus := by
  unfold State.nextFrame; repeat' split
  all_goals rfl

@[simp] theorem nextFrame_sent (s : State) : s.nextFrame.sent = s.sent := by
  unfold State.nextFrame; repeat' split
  all_goals rfl

@[simp] theorem nextFrame_replies (s : State) : s.nextFrame.replies = s.replies := by
  unfold State.nextFrame; repeat' split
  all_goals rfl

theorem nextSample_setCur (s : State) (c : Channel) : (s.setCur c).nextSample = { s.nextSample with channels := s.channels.set s.chan c } := by
  unfold State.nextSample State.setCur; simp only []; split
  · rfl
  · split <;> rfl

end Sys2Proof.Machine
end

