-- ==== Sys2Proof/Laws/Memory.lean ====
section
/-! SUPPORT. The laws of the memories: reading after a write, and the canonical forms that every memory
operation keeps. -/

namespace Sys2Proof.Machine

theorem risingFrom_mono {α : Type} {bound i j : Nat} {cells : List (Nat × α)} (hij : j ≤ i)
    (h : risingFrom bound i cells = true) : risingFrom bound j cells = true := by
  cases cells with
  | nil => rfl
  | cons cell rest =>
    simp only [risingFrom, Bool.and_eq_true, decide_eq_true_eq] at h ⊢
    exact ⟨⟨hij.trans h.1.1, h.1.2⟩, h.2⟩

theorem risingFrom_ge {α : Type} {bound i : Nat} {cells : List (Nat × α)} (h : risingFrom bound i cells = true) :
    ∀ cell ∈ cells, i ≤ cell.1 ∧ cell.1 < bound := by
  induction cells generalizing i with
  | nil => simp
  | cons cell rest ih =>
    simp only [risingFrom, Bool.and_eq_true, decide_eq_true_eq] at h
    intro x hx
    rcases List.mem_cons.1 hx with rfl | hx
    · exact h.1
    · have := ih h.2 x hx; omega

/-! ### Program memories -/

theorem cellsFrom_rising (i bound : Nat) (bytes : List Byte) (h : i + bytes.length ≤ bound) :
    risingFrom bound i (Memory.cellsFrom i bytes) = true := by
  induction bytes generalizing i with
  | nil => rfl
  | cons byte rest ih =>
    simp only [List.length_cons] at h
    have hr := ih (i + 1) (by omega)
    simp only [Memory.cellsFrom]
    split
    · exact risingFrom_mono (by omega) hr
    · simp only [risingFrom, Bool.and_eq_true, decide_eq_true_eq]
      exact ⟨⟨le_refl _, by omega⟩, hr⟩

theorem cellsFrom_nonzero (i : Nat) (bytes : List Byte) :
    (Memory.cellsFrom i bytes).all (fun cell => cell.2 != 0x00#8) = true := by
  induction bytes generalizing i with
  | nil => rfl
  | cons byte rest ih =>
    simp only [Memory.cellsFrom]
    split
    · exact ih (i + 1)
    · rename_i hb
      simp only [List.all_cons, Bool.and_eq_true, bne_iff_ne, ne_eq]
      exact ⟨hb, ih (i + 1)⟩

theorem read_cellsFrom_below (i a : Nat) (bytes : List Byte) (h : a < i) : Memory.read (Memory.cellsFrom i bytes) a = 0x00#8 := by
  induction bytes generalizing i with
  | nil => rfl
  | cons byte rest ih =>
    simp only [Memory.cellsFrom]
    split
    · exact ih (i + 1) (by omega)
    · simp only [Memory.read, if_neg (show ¬ i = a by omega)]; exact ih (i + 1) (by omega)

/-- What a text placed from index `i` on reads as. -/
theorem read_cellsFrom (i k : Nat) (bytes : List Byte) : Memory.read (Memory.cellsFrom i bytes) (i + k) = bytes.getD k 0x00#8 := by
  induction bytes generalizing i k with
  | nil => rfl
  | cons byte rest ih =>
    simp only [Memory.cellsFrom]
    cases k with
    | zero =>
      split
      · rename_i hb
        have h0 := read_cellsFrom_below (i + 1) i rest (by omega)
        simpa [hb] using h0
      · simp [Memory.read]
    | succ k =>
      have h := ih (i + 1) k
      rw [show i + 1 + k = i + (k + 1) by omega] at h
      split
      · simpa using h
      · simp only [Memory.read, if_neg (show ¬ i = i + (k + 1) by omega)]; simpa using h

/-- A loaded text keeps the canonical form. -/
theorem load_wf (text : List Byte) : (Memory.load text).wf = true := by
  simp only [Memory.wf, Memory.load, Bool.and_eq_true]
  exact ⟨cellsFrom_rising 0 mmlMax _ (by simp [List.length_take]), cellsFrom_nonzero 0 _⟩

theorem filter_below_rising (i j : Nat) (m : Memory) (more : Memory) (h : risingFrom mmlMax j m = true) (hij : j ≤ i)
    (hm : risingFrom mmlMax i more = true) : risingFrom mmlMax j (m.filter (fun cell => cell.1 < i) ++ more) = true := by
  induction m generalizing j with
  | nil => exact risingFrom_mono hij hm
  | cons cell rest ih =>
    simp only [risingFrom, Bool.and_eq_true, decide_eq_true_eq] at h
    by_cases hc : cell.1 < i
    · rw [List.filter_cons_of_pos (by simpa using hc), List.cons_append]
      simp only [risingFrom, Bool.and_eq_true, decide_eq_true_eq]
      exact ⟨h.1, ih _ h.2 (by omega)⟩
    · rw [List.filter_cons_of_neg (by simpa using hc)]
      exact ih _ (risingFrom_mono (by omega) h.2) hij

/-- Placing a token keeps the canonical form. -/
theorem place_wf (m : Memory) (i : Nat) (bytes : List Byte) (h : m.wf = true) : (m.place i bytes).wf = true := by
  simp only [Memory.wf, Bool.and_eq_true] at h ⊢
  have hlen : (bytes.take (mmlMax - i)).length ≤ mmlMax - i := List.length_take_le _ _
  refine ⟨?_, ?_⟩
  · rcases Nat.lt_or_ge mmlMax i with hi | hi
    · have hnil : bytes.take (mmlMax - i) = [] := List.eq_nil_of_length_eq_zero (by omega)
      rw [Memory.place, hnil]
      exact filter_below_rising i 0 m [] h.1 (by omega) rfl
    · exact filter_below_rising i 0 m _ h.1 (by omega) (cellsFrom_rising i mmlMax _ (by omega))
  · simp only [Memory.place, List.all_append, Bool.and_eq_true]
    refine ⟨?_, cellsFrom_nonzero i _⟩
    rw [List.all_eq_true] at h ⊢
    exact fun cell hc => h.2 cell (List.mem_of_mem_filter hc)

theorem endFrom_le (m : Memory) (i n : Nat) : m.endFrom i n ≤ i + n := by
  induction n generalizing i with
  | zero => exact le_refl _
  | succ n ih =>
    simp only [Memory.endFrom]
    split
    · omega
    · have := ih (i + 1); omega

theorem le_endFrom (m : Memory) (i n : Nat) : i ≤ m.endFrom i n := by
  induction n generalizing i with
  | zero => exact le_refl _
  | succ n ih =>
    simp only [Memory.endFrom]
    split
    · exact le_refl _
    · have := ih (i + 1); omega

/-- Below the end of a text no byte is 0x00. -/
theorem read_ne_of_lt_endFrom (m : Memory) (i n a : Nat) (hi : i ≤ a) (ha : a < m.endFrom i n) : m.read a ≠ 0x00#8 := by
  induction n generalizing i with
  | zero => simp only [Memory.endFrom] at ha; omega
  | succ n ih =>
    simp only [Memory.endFrom] at ha
    split at ha
    · omega
    · rename_i hne
      rcases Nat.eq_or_lt_of_le hi with rfl | hlt
      · exact hne
      · exact ih (i + 1) hlt ha

theorem endFrom_le_of_read (m : Memory) (i n a : Nat) (hi : i ≤ a) (ha : m.read a = 0x00#8) : m.endFrom i n ≤ a ∨ a ≥ i + n := by
  induction n generalizing i with
  | zero => exact Or.inr (by omega)
  | succ n ih =>
    simp only [Memory.endFrom]
    split
    · exact Or.inl hi
    · rename_i hne
      have hia : i ≠ a := fun h => hne (h ▸ ha)
      rcases ih (i + 1) (by omega) with h | h
      · exact Or.inl h
      · exact Or.inr (by omega)

theorem textLength_le (m : Memory) : m.textLength ≤ mmlMax := by simpa [Memory.textLength] using endFrom_le m 0 mmlMax

/-- `Fetch(ch, i) = 0x00` exactly when `i >= len(mml)`, for every index up to 512, at the text's end. -/
theorem fetch_textLength (m : Memory) : m.fetch m.textLength = 0x00#8 := by
  unfold Memory.fetch
  split
  · rename_i hlt
    by_contra hne
    have key : ∀ n i, i + n = mmlMax → m.endFrom i n < mmlMax → m.read (m.endFrom i n) = 0x00#8 := by
      intro n
      induction n with
      | zero => intro i hi hl; simp only [Memory.endFrom] at hl; omega
      | succ n ih =>
        intro i hi hl
        simp only [Memory.endFrom] at hl ⊢
        split at hl
        · rename_i h0; rw [if_pos h0]; exact h0
        · rename_i h0; rw [if_neg h0]; exact ih (i + 1) (by omega) hl
    exact hne (key mmlMax 0 (by omega) hlt)
  · rfl

/-! ### Frame buffers -/

/-- A write keeps the canonical form of a frame buffer. -/
theorem write_rising (buf : SampleBuf) (i lo : Nat) (v : Half) (h : risingFrom bufMax lo buf = true) (hlo : lo ≤ i) (hi : i < bufMax) :
    risingFrom bufMax lo (buf.write i v) = true := by
  induction buf generalizing lo with
  | nil => simp [SampleBuf.write, risingFrom, hlo, hi]
  | cons cell rest ih =>
    obtain ⟨k, w⟩ := cell
    simp only [risingFrom, Bool.and_eq_true, decide_eq_true_eq] at h
    simp only [SampleBuf.write]
    split
    · simp only [risingFrom, Bool.and_eq_true, decide_eq_true_eq]
      exact ⟨h.1, ih (k + 1) h.2 (by omega)⟩
    · split
      · rename_i hk; subst hk
        simp only [risingFrom, Bool.and_eq_true, decide_eq_true_eq]
        exact h
      · simp only [risingFrom, Bool.and_eq_true, decide_eq_true_eq]
        exact ⟨⟨hlo, hi⟩, ⟨by omega, h.1.2⟩, h.2⟩

theorem write_wf (buf : SampleBuf) (i : Nat) (v : Half) (h : buf.wf = true) (hi : i < bufMax) : (buf.write i v).wf = true :=
  write_rising buf i 0 v h (Nat.zero_le i) hi

/-- Reading the entry that was written. -/
@[simp] theorem written_write_same (buf : SampleBuf) (i : Nat) (v : Half) : (buf.write i v).written i = some v := by
  induction buf with
  | nil => simp [SampleBuf.write, SampleBuf.written]
  | cons cell rest ih =>
    obtain ⟨k, w⟩ := cell
    simp only [SampleBuf.write]
    split
    · simp only [SampleBuf.written, if_neg (show ¬ k = i by omega)]; exact ih
    · split <;> simp [SampleBuf.written]

/-- Reading any other entry. -/
theorem written_write_other (buf : SampleBuf) {i j : Nat} (v : Half) (h : j ≠ i) : (buf.write i v).written j = buf.written j := by
  induction buf with
  | nil => simp [SampleBuf.write, SampleBuf.written, Ne.symm h]
  | cons cell rest ih =>
    obtain ⟨k, w⟩ := cell
    simp only [SampleBuf.write]
    split
    · simp only [SampleBuf.written, ih]
    · split
      · rename_i hk; subst hk; simp [SampleBuf.written, Ne.symm h]
      · simp [SampleBuf.written, Ne.symm h]

@[simp] theorem readBuf_writeBuf_same (s : State) (ch : ChannelId) (i : Nat) (v : Half) :
    (s.writeBuf ch i v).readBuf ch i = v := by
  simp [State.readBuf, SampleBuf.read]

theorem readBuf_writeBuf_other (s : State) {ch other : ChannelId} {i j : Nat} (v : Half) (h : other ≠ ch ∨ j ≠ i) :
    (s.writeBuf ch i v).readBuf other j = s.readBuf other j := by
  by_cases hc : other = ch
  · subst hc
    have hj : j ≠ i := h.resolve_left (fun hn => hn rfl)
    simp [State.readBuf, SampleBuf.read, written_write_other _ _ hj]
  · simp [State.readBuf, SampleBuf.read, get_set_other _ _ hc]

/-- The memories of the reset state are in canonical form. -/
theorem reset_memories_wf (cfg : Config) (ch : ChannelId) :
    ((State.resetOf cfg).mml.get ch).wf = true ∧ ((State.resetOf cfg).buf.get ch).wf = true := by
  cases ch <;> exact ⟨load_wf _, rfl⟩

end Sys2Proof.Machine
end

