-- ==== Sys2Proof/Laws/Ops.lean ====
section
/-! SUPPORT. One lemma for each shared operation that says once everything it can do, and the value lemmas of
the saturating arithmetic. -/

namespace Sys2Proof.Machine

/-! ### Arithmetic (00_scope.md R11) -/

theorem sat32_toNat (v : Nat) : (sat32 v).toNat = min v 4294967295 := by
  simp only [sat32, BitVec.toNat_ofNat]; omega

theorem sats32_toInt (v : Int) : (sats32 v).toInt = max (-2147483647) (min v 2147483647) := by
  simp only [sats32, BitVec.toInt_ofInt, Int.bmod_def]; omega

theorem asr_le (v : Int) (n : Nat) (hi : Int) (h : v ≤ hi * 2 ^ n) : asr v n ≤ hi := by
  have hp : (0 : Int) < 2 ^ n := by positivity
  exact Int.ediv_le_of_le_mul hp h

theorem le_asr (v : Int) (n : Nat) (lo : Int) (h : lo * 2 ^ n ≤ v) : lo ≤ asr v n := by
  have hp : (0 : Int) < 2 ^ n := by positivity
  exact (Int.le_ediv_iff_mul_le hp).2 h

/-- The note-length function never exceeds four times its numerator (40_mml_notes.md R110). -/
theorem dur_le (tempo denominator : Nat) : dur tempo denominator ≤ 691200000 := by
  have h1 : lenNum / tempo ≤ lenNum := Nat.div_le_self _ _
  have h2 : lenNum / tempo * 4 / denominator ≤ lenNum / tempo * 4 := Nat.div_le_self _ _
  have h3 : lenNum = 172800000 := rfl
  unfold dur; omega

theorem plainLength_lt (c : Channel) (digits : List Nat) : plainLength c digits < 4294967296 := by
  unfold plainLength
  have h1 := c.defLen.isLt
  split
  · rename_i n _
    split
    · exact h1
    · have := dur_le c.tempo.toNat n; omega
  · exact h1

/-- The length operand as a number (30_encoding.md R96). -/
theorem lengthOperand_toNat (c : Channel) (digits : List Nat) (dot : Bool) :
    (lengthOperand c digits dot).toNat =
      if dot then min (plainLength c digits + plainLength c digits / 2) 4294967295 else plainLength c digits := by
  have h := plainLength_lt c digits
  unfold lengthOperand
  cases dot with
  | true => simp [sat32_toNat]
  | false => simp only [Bool.false_eq_true, if_false, BitVec.toNat_ofNat]; omega

/-! ### The two halves of StartOrTie (40_mml_notes.md R114) -/

theorem startOrTie_of_tie {c : Channel} (h : c.tie = true) (d : Word) : c.startOrTie d = c.bindTie d := by
  simp [Channel.startOrTie, h]

theorem startOrTie_of_fresh {c : Channel} (h : c.tie = false) (d : Word) : c.startOrTie d = c.startNote d := by
  simp [Channel.startOrTie, h]

/-- `StartOrTie` clears `tie` and leaves every register outside the note state as it was. -/
theorem startOrTie_frame (c : Channel) (d : Word) :
    (c.startOrTie d).tie = false ∧ (c.startOrTie d).mmlPos = c.mmlPos ∧ (c.startOrTie d).frValue = c.frValue
    ∧ (c.startOrTie d).tempo = c.tempo ∧ (c.startOrTie d).defKeylen = c.defKeylen ∧ (c.startOrTie d).defLen = c.defLen
    ∧ (c.startOrTie d).octave = c.octave ∧ (c.startOrTie d).localVol = c.localVol ∧ (c.startOrTie d).toneRate = c.toneRate
    ∧ (c.startOrTie d).pwmRate = c.pwmRate ∧ (c.startOrTie d).envNo = c.envNo ∧ (c.startOrTie d).envLen = c.envLen
    ∧ (c.startOrTie d).toneNo = c.toneNo ∧ (c.startOrTie d).pitchNo = c.pitchNo ∧ (c.startOrTie d).tuneDepth = c.tuneDepth := by
  unfold Channel.startOrTie
  cases h : c.tie <;> simp [h]

/-! ### The engine's place (44_mixer_driver.md R200) -/

/-- Where the engine goes after a whole sample step. -/
theorem nextSample_cases (s : State) :
    (s.idx + 1 < s.cfg.nTick ∧ s.nextSample = { s with phase := .sample, idx := s.idx + 1 })
    ∨ (¬ s.idx + 1 < s.cfg.nTick ∧ ∃ ch, nextChannel s.chan = some ch ∧ s.nextSample = { s with phase := .prologue, chan := ch, idx := 0 })
    ∨ (¬ s.idx + 1 < s.cfg.nTick ∧ nextChannel s.chan = none ∧ s.nextSample = { s with phase := .mix, chan := .ch0, idx := 0 }) := by
  unfold State.nextSample
  by_cases h : s.idx + 1 < s.cfg.nTick
  · exact Or.inl ⟨h, by rw [if_pos h]⟩
  · rw [if_neg h]
    cases hn : nextChannel s.chan with
    | some ch => exact Or.inr (Or.inl ⟨h, ch, rfl, rfl⟩)
    | none => exact Or.inr (Or.inr ⟨h, rfl, rfl⟩)

/-- The place after a whole sample step is the one the statements name. -/
theorem nextSample_eq_place (s : State) :
    s.nextSample = { s with
      phase := (placeAfterSample s.cfg.nTick s.chan s.idx).1
      chan := (placeAfterSample s.cfg.nTick s.chan s.idx).2.1
      idx := (placeAfterSample s.cfg.nTick s.chan s.idx).2.2 } := by
  unfold State.nextSample placeAfterSample
  by_cases h : s.idx + 1 < s.cfg.nTick
  · simp only [if_pos h]
  · simp only [if_neg h]
    cases s.chan <;> rfl

/-- A parser run is inside a sample step, so no whole sample step ends there. -/
theorem placeAfterSample_ne_parse (nTick : Nat) (ch : ChannelId) (i : Nat) : (placeAfterSample nTick ch i).1 ≠ .parse := by
  unfold placeAfterSample
  split
  · exact Phase.noConfusion
  · cases ch <;> exact Phase.noConfusion

/-- Where the engine goes after a frame. -/
theorem nextFrame_cases (s : State) :
    (s.idx + 1 < s.cfg.nTick ∧ s.nextFrame = { s with idx := s.idx + 1 })
    ∨ (¬ s.idx + 1 < s.cfg.nTick ∧ s.nextFrame = { s with phase := .idle, chan := .ch0, idx := 0 }) := by
  unfold State.nextFrame
  by_cases h : s.idx + 1 < s.cfg.nTick
  · exact Or.inl ⟨h, by rw [if_pos h]⟩
  · exact Or.inr ⟨h, by rw [if_neg h]⟩

/-! ### The tokens -/

/-- Everything a token can do: it always completes, it changes the registers of the channel being processed
and nothing else, and it either leaves the engine's place (a command) or ends the sample step (a note or a
rest). -/
theorem exec_cases (i : Instr) (s : State) :
    ∃ c, exec i s = .next (s.setCur c) ∨ exec i s = .next (s.setCur c).nextSample := by
  cases i <;> first
    | exact ⟨_, Or.inl rfl⟩
    | exact ⟨_, Or.inr rfl⟩

/-! ### The modulators (42_modulators.md) -/

/-- The envelope writes `int_vol` only. -/
theorem envelope_frame (c : Channel) : ∃ v, envelope c = { c with intVol := v } := by
  unfold envelope envShape1 envShape2 envShape3
  repeat' split
  all_goals exact ⟨_, rfl⟩

/-- The pitch modulator writes `fr_tune` only. -/
theorem pitch_frame (c : Channel) : ∃ v, pitch c = { c with frTune := v } := by
  unfold pitch pitchShape1 pitchShape2 pitchShape3
  repeat' split
  all_goals exact ⟨_, rfl⟩

/-- A channel's prologue writes `frame_pos`, `int_vol` and `fr_tune` only. -/
theorem modulate_frame (c : Channel) :
    ∃ v w, modulate c = { c with framePos := sat32 (c.framePos.toNat + 1), intVol := v, frTune := w } := by
  unfold modulate
  obtain ⟨v, hv⟩ := envelope_frame { c with framePos := sat32 (c.framePos.toNat + 1) }
  obtain ⟨w, hw⟩ := pitch_frame (envelope { c with framePos := sat32 (c.framePos.toNat + 1) })
  exact ⟨v, w, by rw [hw, hv]⟩

/-- The pitch leaves the volume to the envelope. -/
theorem modulate_intVol (c : Channel) : (modulate c).intVol = (envelope { c with framePos := sat32 (c.framePos.toNat + 1) }).intVol := by
  obtain ⟨v, hv⟩ := pitch_frame (envelope { c with framePos := sat32 (c.framePos.toNat + 1) })
  unfold modulate
  rw [hv]

/-- The envelope leaves the pitch alone: the pitch acts on the registers as the tick found them, but for
`frame_pos`. -/
theorem modulate_frTune (c : Channel) : (modulate c).frTune = (pitch { c with framePos := sat32 (c.framePos.toNat + 1) }).frTune := by
  obtain ⟨v, hv⟩ := envelope_frame { c with framePos := sat32 (c.framePos.toNat + 1) }
  unfold modulate
  rw [hv]
  unfold pitch pitchShape1 pitchShape2 pitchShape3
  dsimp only
  repeat' split
  all_goals rfl

/-! ### The tick -/

/-- A sample step: where it completes, and what it leaves. -/
theorem sampleStep_cases {s t : State} (h : sampleStep s = .next t) :
    s.idx < bufMax ∧ ∃ v, t =
      (let c := sampled s.cfg s.masterVol s.cur
       let filled := (s.setCur c).writeBuf s.chan s.idx v
       if c.slicePos.toNat ≥ c.len.toNat then { filled with phase := .parse } else filled.nextSample) := by
  unfold sampleStep at h
  split at h
  · rename_i hi
    exact ⟨hi, _, by simpa using h.symm⟩
  · cases h

/-- A query of the sink: the answers are used up, or the sink is busy, or the frame is sent. -/
theorem mixStep_cases {s t : State} (h : mixStep s = .next t) :
    s.idx < bufMax ∧
      ((s.sinkStatus = [] ∧ t = s)
      ∨ ∃ status later, s.sinkStatus = status :: later ∧
          ((busy status = true ∧ t = { s with sinkStatus := later })
          ∨ (busy status = false ∧ t = ({ s with sinkStatus := later }.sendFrame (frameAt s s.idx)).nextFrame))) := by
  unfold mixStep at h
  split at h
  · rename_i hi
    refine ⟨hi, ?_⟩
    split at h
    · rename_i hq; exact Or.inl ⟨hq, by simpa using h.symm⟩
    · rename_i status later hq
      refine Or.inr ⟨status, later, hq, ?_⟩
      cases hb : busy status with
      | true => exact Or.inl ⟨rfl, by simpa [hb] using h.symm⟩
      | false => exact Or.inr ⟨rfl, by simpa [hb, frameAt, mixSum, State.readBuf] using h.symm⟩
  · cases h

/-- Between transactions: nothing to do, or one transaction in a legal configuration. -/
theorem hostStep_cases {s t : State} (h : hostStep s = .next t) :
    (s.hostQueue = [] ∧ t = s)
    ∨ ∃ tr later, s.hostQueue = tr :: later ∧ configLegal s.cfg = true ∧ t = transact tr { s with hostQueue := later } := by
  unfold hostStep at h
  split at h
  · rename_i hq; exact Or.inl ⟨hq, by simpa using h.symm⟩
  · rename_i tr later hq
    split at h
    · rename_i hl; exact Or.inr ⟨tr, later, hq, hl, by simpa using h.symm⟩
    · cases h

/-- The parser's step: `mml_pos` is inside the memory or at its end, and the token there is executed. -/
theorem parseStep_cases {s t : State} (h : parseStep s = .next t) :
    s.cur.mmlPos.toNat ≤ mmlMax ∧ exec (decode s.textAhead).1 s = .next t := by
  unfold parseStep State.fetchToken at h
  split at h
  · rename_i i hi
    split at hi
    · rename_i hp
      cases hi
      exact ⟨hp, h⟩
    · cases hi
  · cases h

/-- Everything a step can do. -/
theorem step_cases {s t : State} (h : step s = .next t) :
    (s.phase = .idle ∧ hostStep s = .next t) ∨ (s.phase = .prologue ∧ t = prologueStep s)
    ∨ (s.phase = .sample ∧ sampleStep s = .next t) ∨ (s.phase = .parse ∧ parseStep s = .next t)
    ∨ (s.phase = .mix ∧ mixStep s = .next t) := by
  unfold step at h
  cases hp : s.phase <;> rw [hp] at h <;> simp_all

/-- One more step at the front of a run. -/
theorem run_succ (M : Host.Core) {s t : M.State} (n : Nat) (h : M.step s = .next t) : M.run (n + 1) s = M.run n t := by
  simp only [Host.Core.run, h]

theorem runSteps_succ {s t : State} (n : Nat) (h : step s = .next t) : runSteps (n + 1) s = runSteps n t :=
  run_succ Sys2Proof.core n h

@[simp] theorem runSteps_zero (s : State) : runSteps 0 s = .next s := rfl

end Sys2Proof.Machine
end

