-- ==== Sys2Proof/Laws/PerInstr.lean ====
section
/-! SUPPORT. The family OpcodeByte, one lemma for each constructor of Instr: the first byte of a well-formed
instruction's encoding is an opcode byte of that instruction's own row. -/

namespace Sys2Proof.Laws

/-- The encoding of `i` begins with an opcode byte of `i`'s own row of the opcode map (30_encoding.md R90, R97). -/
def OpcodeByte.Statement (i : Instr) : Prop :=
  i.wellFormed = true → ∃ byte suffix, encode i = byte :: suffix ∧ classify byte = i.opcode

theorem OpcodeByte.c (k : LetterCase) (acc : Accidental) (digits : List Nat) (dot : Bool) : OpcodeByte.Statement (.c k acc digits dot) :=
  fun _ => ⟨_, _, rfl, by cases k <;> rfl⟩

theorem OpcodeByte.d (k : LetterCase) (acc : Accidental) (digits : List Nat) (dot : Bool) : OpcodeByte.Statement (.d k acc digits dot) :=
  fun _ => ⟨_, _, rfl, by cases k <;> rfl⟩

theorem OpcodeByte.e (k : LetterCase) (acc : Accidental) (digits : List Nat) (dot : Bool) : OpcodeByte.Statement (.e k acc digits dot) :=
  fun _ => ⟨_, _, rfl, by cases k <;> rfl⟩

theorem OpcodeByte.f (k : LetterCase) (acc : Accidental) (digits : List Nat) (dot : Bool) : OpcodeByte.Statement (.f k acc digits dot) :=
  fun _ => ⟨_, _, rfl, by cases k <;> rfl⟩

theorem OpcodeByte.g (k : LetterCase) (acc : Accidental) (digits : List Nat) (dot : Bool) : OpcodeByte.Statement (.g k acc digits dot) :=
  fun _ => ⟨_, _, rfl, by cases k <;> rfl⟩

theorem OpcodeByte.a (k : LetterCase) (acc : Accidental) (digits : List Nat) (dot : Bool) : OpcodeByte.Statement (.a k acc digits dot) :=
  fun _ => ⟨_, _, rfl, by cases k <;> rfl⟩

theorem OpcodeByte.b (k : LetterCase) (acc : Accidental) (digits : List Nat) (dot : Bool) : OpcodeByte.Statement (.b k acc digits dot) :=
  fun _ => ⟨_, _, rfl, by cases k <;> rfl⟩

theorem OpcodeByte.r (k : LetterCase) (digits : List Nat) (dot : Bool) : OpcodeByte.Statement (.r k digits dot) :=
  fun _ => ⟨_, _, rfl, by cases k <;> rfl⟩

theorem OpcodeByte.tie : OpcodeByte.Statement .tie :=
  fun _ => ⟨_, _, rfl, rfl⟩

theorem OpcodeByte.t (k : LetterCase) (digits : List Nat) : OpcodeByte.Statement (.t k digits) :=
  fun _ => ⟨_, _, rfl, by cases k <;> rfl⟩

theorem OpcodeByte.l (k : LetterCase) (digits : List Nat) : OpcodeByte.Statement (.l k digits) :=
  fun _ => ⟨_, _, rfl, by cases k <;> rfl⟩

theorem OpcodeByte.o (k : LetterCase) (digits : List Nat) : OpcodeByte.Statement (.o k digits) :=
  fun _ => ⟨_, _, rfl, by cases k <;> rfl⟩

theorem OpcodeByte.octUp : OpcodeByte.Statement .octUp :=
  fun _ => ⟨_, _, rfl, rfl⟩

theorem OpcodeByte.octDown : OpcodeByte.Statement .octDown :=
  fun _ => ⟨_, _, rfl, rfl⟩

theorem OpcodeByte.v (k : LetterCase) (digits : List Nat) : OpcodeByte.Statement (.v k digits) :=
  fun _ => ⟨_, _, rfl, by cases k <;> rfl⟩

theorem OpcodeByte.x (k : LetterCase) (digits : List Nat) : OpcodeByte.Statement (.x k digits) :=
  fun _ => ⟨_, _, rfl, by cases k <;> rfl⟩

theorem OpcodeByte.q (k : LetterCase) (digits : List Nat) : OpcodeByte.Statement (.q k digits) :=
  fun _ => ⟨_, _, rfl, by cases k <;> rfl⟩

theorem OpcodeByte.s (k : LetterCase) (digits : List Nat) : OpcodeByte.Statement (.s k digits) :=
  fun _ => ⟨_, _, rfl, by cases k <;> rfl⟩

theorem OpcodeByte.m (k : LetterCase) (digits : List Nat) : OpcodeByte.Statement (.m k digits) :=
  fun _ => ⟨_, _, rfl, by cases k <;> rfl⟩

theorem OpcodeByte.tone (digits : List Nat) : OpcodeByte.Statement (.tone digits) :=
  fun _ => ⟨_, _, rfl, rfl⟩

theorem OpcodeByte.p (k : LetterCase) (digits : List Nat) : OpcodeByte.Statement (.p k digits) :=
  fun _ => ⟨_, _, rfl, by cases k <;> rfl⟩

theorem OpcodeByte.h (k : LetterCase) (digits : List Nat) : OpcodeByte.Statement (.h k digits) :=
  fun _ => ⟨_, _, rfl, by cases k <;> rfl⟩

theorem OpcodeByte.eos : OpcodeByte.Statement .eos :=
  fun _ => ⟨_, _, rfl, rfl⟩

theorem OpcodeByte.skip (byte : Byte) : OpcodeByte.Statement (.skip byte) :=
  fun h => ⟨_, _, rfl, (classify_skip_iff byte).2 h⟩

end Sys2Proof.Laws
end

