-- ==== Sys2Proof/Tests/Slice0.lean ====
section
/-! SUPPORT. The model's own tests: ill-formed instructions are refused, words written out from the tables of
30_encoding.md decode to their tokens, one step gives the values of 95_test_vectors.md, and each statement's
hypotheses have a witness. -/

namespace Sys2Proof.Tests

open Sys2Proof Sys2Proof.Machine

set_option Elab.async false

/-! Well-formedness: one ill-formed instruction for each check. -/

/-- A digit is 0 to 9 (30_encoding.md R92). -/
theorem test_wellFormed_refuses_digit_ten : Instr.wellFormed (.t .lower [1, 10]) = false := by decide
/-- A format N token of 513 bytes does not fit a program memory (20_memory.md R61). -/
theorem test_wellFormed_refuses_long_note :
    Instr.wellFormed (.c .lower .sharp (List.replicate 510 1) true) = false := by decide +kernel
/-- One byte less fits. -/
theorem test_wellFormed_takes_longest_note :
    Instr.wellFormed (.c .lower .sharp (List.replicate 509 1) true) = true := by decide +kernel
/-- A rest, with a dot, of 513 bytes. -/
theorem test_wellFormed_refuses_long_rest : Instr.wellFormed (.r .upper (List.replicate 511 0) true) = false := by
  decide +kernel
/-- A command of 513 bytes. -/
theorem test_wellFormed_refuses_long_command : Instr.wellFormed (.h .upper (List.replicate 512 0)) = false := by
  decide +kernel
/-- The byte of a skip token belongs to no other token (30_encoding.md R98): `c`, `@` and 0x00 do. -/
theorem test_wellFormed_refuses_skip_letter :
    Instr.wellFormed (.skip 0x63#8) = false ∧ Instr.wellFormed (.skip 0x40#8) = false
    ∧ Instr.wellFormed (.skip 0x00#8) = false := by decide

/-! Decoding: a word written out from 30_encoding.md R92 and R97 for every constructor; the texts with a value
of 95_test_vectors.md 2.2 to 2.7 are used where it has one. -/

/-- `c4`, `D#8.`, `e8.`, `f#2`, `G+`, `a-16`, `b`: format N. -/
theorem test_decode_notes :
    decode [0x63#8, 0x34#8] = (.c .lower .natural [4] false, [])
    ∧ decode [0x44#8, 0x23#8, 0x38#8, 0x2E#8] = (.d .upper .sharp [8] true, [])
    ∧ decode [0x65#8, 0x38#8, 0x2E#8] = (.e .lower .natural [8] true, [])
    ∧ decode [0x66#8, 0x23#8, 0x32#8] = (.f .lower .sharp [2] false, [])
    ∧ decode [0x47#8, 0x2B#8] = (.g .upper .plus [] false, [])
    ∧ decode [0x61#8, 0x2D#8, 0x31#8, 0x36#8] = (.a .lower .flat [1, 6] false, [])
    ∧ decode [0x62#8] = (.b .lower .natural [] false, []) := by decide
/-- `r8.`: format L. `&`, `>`, `<`: format Z. 0x00: format E. 0x80, space, `I`: format S. -/
theorem test_decode_rest_marks_and_skips :
    decode [0x72#8, 0x38#8, 0x2E#8] = (.r .lower [8] true, [])
    ∧ decode [0x26#8] = (.tie, []) ∧ decode [0x3E#8] = (.octUp, []) ∧ decode [0x3C#8] = (.octDown, [])
    ∧ decode [0x00#8, 0x63#8] = (.eos, [0x63#8])
    ∧ decode [0x80#8, 0x63#8] = (.skip 0x80#8, [0x63#8]) ∧ decode [0x20#8] = (.skip 0x20#8, [])
    ∧ decode [0x49#8] = (.skip 0x49#8, []) := by decide
/-- `t60`, `L8`, `o5`, `v15`, `X25`, `q4`, `s3`, `M6`, `@4`, `p1`, `h2`: format K. -/
theorem test_decode_commands :
    decode [0x74#8, 0x36#8, 0x30#8] = (.t .lower [6, 0], []) ∧ decode [0x4C#8, 0x38#8] = (.l .upper [8], [])
    ∧ decode [0x6F#8, 0x35#8] = (.o .lower [5], []) ∧ decode [0x76#8, 0x31#8, 0x35#8] = (.v .lower [1, 5], [])
    ∧ decode [0x58#8, 0x32#8, 0x35#8] = (.x .upper [2, 5], []) ∧ decode [0x71#8, 0x34#8] = (.q .lower [4], [])
    ∧ decode [0x73#8, 0x33#8] = (.s .lower [3], []) ∧ decode [0x4D#8, 0x36#8] = (.m .upper [6], [])
    ∧ decode [0x40#8, 0x34#8] = (.tone [4], []) ∧ decode [0x70#8, 0x31#8] = (.p .lower [1], [])
    ∧ decode [0x68#8, 0x32#8] = (.h .lower [2], []) := by decide
/-- One accidental only (`c--4`), one dot only (`c4..`), no suffix across a space (`c 4`), no dot after `l4`
(95_test_vectors.md 2.2, 2.3, 2.6). -/
theorem test_decode_stops :
    decode [0x63#8, 0x2D#8, 0x2D#8, 0x34#8] = (.c .lower .flat [] false, [0x2D#8, 0x34#8])
    ∧ decode [0x63#8, 0x34#8, 0x2E#8, 0x2E#8] = (.c .lower .natural [4] true, [0x2E#8])
    ∧ decode [0x63#8, 0x20#8, 0x34#8] = (.c .lower .natural [] false, [0x20#8, 0x34#8])
    ∧ decode [0x6C#8, 0x34#8, 0x2E#8] = (.l .lower [4], [0x2E#8]) := by decide
/-- The opcode table's words: bit 0 is the least significant bit of the first byte. -/
theorem test_decodeTableWord :
    decodeTableWord 8 0x43 = some (.c .upper .natural [] false) ∧ decodeTableWord 8 0x3E = some .octUp
    ∧ decodeTableWord 16 0x3454 = some (.t .upper [4]) := by decide
/-- The encoder writes the bytes of `a-16`, `e8.` and `t60`. -/
theorem test_encode :
    encode (.a .lower .flat [1, 6] false) = [0x61#8, 0x2D#8, 0x31#8, 0x36#8]
    ∧ encode (.e .lower .natural [8] true) = [0x65#8, 0x38#8, 0x2E#8]
    ∧ encode (.t .upper [6, 0]) = [0x54#8, 0x36#8, 0x30#8] := by decide

/-! One step of one token, from reset with the text loaded. -/

/-- The machine right after reset with `text` in channel 0's program memory, inside that channel's `Parse`. -/
def parsing (text : List Byte) : State :=
  { State.reset with mml := State.reset.mml.set .ch0 (Memory.load text), phase := .parse }

/-- `s` with channel 0's registers changed. -/
def withCh0 (change : Channel → Channel) (s : State) : State :=
  { s with channels := s.channels.set .ch0 (change (s.channels.get .ch0)) }

/-- Reset with channel 0's registers changed. -/
def resetWith (change : Channel → Channel) : State := withCh0 change State.reset

/-- Channel 0's registers after a step that answers a next state. -/
def ch0After (s : State) : Option Channel :=
  match step s with
  | .next t => some (t.channels.get .ch0)
  | .fault _ => none
  | .refused _ => none

/-- The whole state after a step that answers a next state. -/
def after (s : State) : Option State :=
  match step s with
  | .next t => some t
  | .fault _ => none
  | .refused _ => none

/-- `fr_value`, `len` and `mml_pos` after one step on a text: the columns of 95_test_vectors.md 2.2 to 2.5. -/
def noteRow (s : State) : Option (Nat × Nat × Nat) :=
  (ch0After s).map fun c => (c.frValue.toNat, c.len.toNat, c.mmlPos.toNat)

/-- 95_test_vectors.md 2.2, `c007`: leading zeros. -/
theorem test_c : noteRow (parsing [0x63#8, 0x30#8, 0x30#8, 0x37#8]) = some (92, 822857, 4) := by decide +kernel
/-- 95_test_vectors.md 2.3, `c-`. -/
theorem test_c_flat : noteRow (parsing [0x63#8, 0x2D#8]) = some (97, 1440000, 2) := by decide +kernel
/-- 95_test_vectors.md 2.3, `d`. -/
theorem test_d : noteRow (parsing [0x64#8]) = some (82, 1440000, 1) := by decide +kernel
/-- 95_test_vectors.md 2.2, `e8.`. -/
theorem test_e : noteRow (parsing [0x65#8, 0x38#8, 0x2E#8]) = some (73, 1080000, 3) := by decide +kernel
/-- 95_test_vectors.md 2.3, `f#2`. -/
theorem test_f : noteRow (parsing [0x66#8, 0x23#8, 0x32#8]) = some (65, 2880000, 3) := by decide +kernel
/-- 95_test_vectors.md 2.3, `G+`. -/
theorem test_g : noteRow (parsing [0x47#8, 0x2B#8]) = some (58, 1440000, 2) := by decide +kernel
/-- 95_test_vectors.md 2.3, `a-16`. -/
theorem test_a : noteRow (parsing [0x61#8, 0x2D#8, 0x31#8, 0x36#8]) = some (58, 360000, 4) := by decide +kernel
/-- 95_test_vectors.md 2.3, `b#`: the `c` of the next octave. -/
theorem test_b : noteRow (parsing [0x62#8, 0x23#8]) = some (46, 1440000, 2) := by decide +kernel
/-- 95_test_vectors.md 2.4, `b` with stored octave 7: a rest. -/
theorem test_b_octave_seven : noteRow (withCh0 (fun c => { c with octave := 7#3 }) (parsing [0x62#8])) = some (0, 1440000, 1) := by
  decide +kernel
/-- 95_test_vectors.md 2.5, `r8.`. -/
theorem test_r : noteRow (parsing [0x72#8, 0x38#8, 0x2E#8]) = some (0, 1080000, 3) := by decide +kernel
/-- A fresh note clears the note state and latches the volume (40_mml_notes.md R114). -/
theorem test_fresh_note :
    ch0After (withCh0 (fun c => { c with slicePos := 9#32, framePos := 8#32, frCounter := 7#32, frTune := 6#32, localVol := 3#4 })
      (parsing [0x63#8]))
    = some { Channel.reset with mmlPos := 1#10, frValue := 92#16, len := 1440000#32, localVol := 3#4, intVol := 3#4 } := by
  decide +kernel
/-- 95_test_vectors.md 2.5, the second half of `c4&d8`: `len` is 2,160,000, the phase and the volume are kept. -/
theorem test_tied_note :
    (ch0After (withCh0 (fun c => { c with tie := true, len := 1440000#32, slicePos := 1440000#32, frCounter := 7#32, localVol := 3#4 })
      (parsing [0x64#8, 0x38#8]))).map (fun c => (c.frValue.toNat, c.len.toNat, c.slicePos.toNat, c.frCounter.toNat, c.intVol.toNat, c.tie))
    = some (82, 2160000, 1440000, 7, 15, false) := by decide +kernel
/-- `&` sets `tie` and the parser goes on (40_mml_notes.md R122). -/
theorem test_tie :
    (after (parsing [0x26#8])).map (fun t => ((t.channels.get .ch0).tie, (t.channels.get .ch0).mmlPos, t.phase))
    = some (true, 1#10, .parse) := by decide +kernel
/-- 95_test_vectors.md 2.6, `T150` and `t70000`. -/
theorem test_t :
    (ch0After (parsing [0x54#8, 0x31#8, 0x35#8, 0x30#8])).map (fun c => (c.tempo.toNat, c.defLen.toNat)) = some (150, 1152000)
    ∧ (ch0After (parsing [0x74#8, 0x37#8, 0x30#8, 0x30#8, 0x30#8, 0x30#8])).map (fun c => (c.tempo.toNat, c.defLen.toNat))
      = some (65535, 2636) := by decide +kernel
/-- 95_test_vectors.md 2.6, `t0`: zero gives the default. -/
theorem test_t_zero :
    (ch0After (withCh0 (fun c => { c with tempo := 60#16 }) (parsing [0x74#8, 0x30#8]))).map (fun c => (c.tempo.toNat, c.defLen.toNat))
    = some (120, 1440000) := by decide +kernel
/-- 95_test_vectors.md 2.6, `l64` and `l0`. -/
theorem test_l :
    (ch0After (parsing [0x6C#8, 0x36#8, 0x34#8])).map (fun c => (c.defKeylen.toNat, c.defLen.toNat)) = some (64, 90000)
    ∧ (ch0After (parsing [0x6C#8, 0x30#8])).map (fun c => (c.defKeylen.toNat, c.defLen.toNat)) = some (4, 1440000) := by
  decide +kernel
/-- 95_test_vectors.md 2.6, `o3`, `o9`, `o0` and `o`. -/
theorem test_o :
    (ch0After (parsing [0x6F#8, 0x33#8])).map (·.octave.toNat) = some 2
    ∧ (ch0After (parsing [0x6F#8, 0x39#8])).map (·.octave.toNat) = some 7
    ∧ (ch0After (parsing [0x6F#8, 0x30#8])).map (·.octave.toNat) = some 0
    ∧ (ch0After (withCh0 (fun c => { c with octave := 2#3 }) (parsing [0x6F#8]))).map (·.octave.toNat) = some 4 := by decide +kernel
/-- 95_test_vectors.md 2.6, `>` and `o8>`. -/
theorem test_octUp :
    (ch0After (parsing [0x3E#8])).map (·.octave.toNat) = some 5
    ∧ (ch0After (withCh0 (fun c => { c with octave := 7#3 }) (parsing [0x3E#8]))).map (·.octave.toNat) = some 7 := by decide +kernel
/-- 95_test_vectors.md 2.6, `<` and `o1<`. -/
theorem test_octDown :
    (ch0After (parsing [0x3C#8])).map (·.octave.toNat) = some 3
    ∧ (ch0After (withCh0 (fun c => { c with octave := 0#3 }) (parsing [0x3C#8]))).map (·.octave.toNat) = some 0 := by decide +kernel
/-- 95_test_vectors.md 2.6, `v8` (`int_vol` follows with the next note only) and `v16`. -/
theorem test_v :
    (ch0After (parsing [0x76#8, 0x38#8])).map (fun c => (c.localVol.toNat, c.intVol.toNat)) = some (8, 15)
    ∧ (ch0After (parsing [0x76#8, 0x31#8, 0x36#8])).map (·.localVol.toNat) = some 15 := by decide +kernel
/-- 95_test_vectors.md 2.6, `x0` and `x100`. -/
theorem test_x :
    (ch0After (parsing [0x78#8, 0x30#8])).map (·.pwmRate.toNat) = some 1
    ∧ (ch0After (parsing [0x78#8, 0x31#8, 0x30#8, 0x30#8])).map (·.pwmRate.toNat) = some 99 := by decide +kernel
/-- 95_test_vectors.md 2.6, `q4`, `q0` and `q9`. -/
theorem test_q :
    (ch0After (parsing [0x71#8, 0x34#8])).map (·.toneRate.toNat) = some 4
    ∧ (ch0After (parsing [0x71#8, 0x30#8])).map (·.toneRate.toNat) = some 1
    ∧ (ch0After (parsing [0x71#8, 0x39#8])).map (·.toneRate.toNat) = some 8 := by decide +kernel
/-- 95_test_vectors.md 2.6, `s256`. -/
theorem test_s : (ch0After (parsing [0x73#8, 0x32#8, 0x35#8, 0x36#8])).map (·.envNo.toNat) = some 255 := by decide +kernel
/-- 95_test_vectors.md 2.6, `m6` and `m0`. -/
theorem test_m :
    (ch0After (parsing [0x6D#8, 0x36#8])).map (·.envLen.toNat) = some 6
    ∧ (ch0After (parsing [0x6D#8, 0x30#8])).map (·.envLen.toNat) = some 1 := by decide +kernel
/-- 95_test_vectors.md 2.6, `@4` and `@300`. -/
theorem test_tone :
    (ch0After (parsing [0x40#8, 0x34#8])).map (·.toneNo.toNat) = some 4
    ∧ (ch0After (parsing [0x40#8, 0x33#8, 0x30#8, 0x30#8])).map (·.toneNo.toNat) = some 255 := by decide +kernel
/-- 95_test_vectors.md 2.6, `p999`. -/
theorem test_p : (ch0After (parsing [0x70#8, 0x39#8, 0x39#8, 0x39#8])).map (·.pitchNo.toNat) = some 255 := by decide +kernel
/-- 95_test_vectors.md 2.6, `h2` and `h65536`. -/
theorem test_h :
    (ch0After (parsing [0x68#8, 0x32#8])).map (·.tuneDepth.toNat) = some 2
    ∧ (ch0After (parsing [0x68#8, 0x36#8, 0x35#8, 0x35#8, 0x33#8, 0x36#8])).map (·.tuneDepth.toNat) = some 65535 := by decide +kernel
/-- The end of the text wraps `mml_pos` to 0 (41_mml_commands.md R131), at `len(mml)` and at index 512. -/
theorem test_eos :
    (ch0After (withCh0 (fun c => { c with mmlPos := 1#10 }) (parsing [0x63#8]))).map (·.mmlPos) = some 0#10
    ∧ (ch0After (withCh0 (fun c => { c with mmlPos := 512#10 }) (parsing [0x63#8]))).map (·.mmlPos) = some 0#10 := by decide +kernel
/-- A skip token only moves the cursor (41_mml_commands.md R147): the bar line of `c|d`. -/
theorem test_skip :
    ch0After (withCh0 (fun c => { c with mmlPos := 1#10 }) (parsing [0x63#8, 0x7C#8, 0x64#8]))
    = some { Channel.reset with mmlPos := 2#10 } := by decide +kernel

/-! The engine: modulators, generator, tick, mixer, host. -/

/-- 95_test_vectors.md 2.8: shape 1 from 15 stops at 11; shape 2 from 14 goes 12, 10, 8, 6, 6. -/
theorem test_envelope :
    (List.range 5).map (fun k => (modulate^[k + 1] { Channel.reset with envNo := 1#8 }).intVol.toNat) = [14, 13, 12, 11, 11]
    ∧ (List.range 5).map (fun k => (modulate^[k + 1] { Channel.reset with envNo := 2#8, localVol := 14#4, intVol := 14#4 }).intVol.toNat)
      = [12, 10, 8, 6, 6] := by decide +kernel
/-- Vibrato acts from `frame_pos` 8 on (42_modulators.md R165, R166): `p1h2m4`, steps 7 to 12. -/
theorem test_vibrato :
    (List.range 6).map (fun k => (modulate^[k + 7] { Channel.reset with pitchNo := 1#8, tuneDepth := 2#16, envLen := 4#16 }).frTune.toInt)
    = [0, 2, 2, 2, 2, -2] := by decide +kernel
/-- A rest writes 0 and the idle channel parses at its first sample (44_mixer_driver.md R203). -/
theorem test_sample_rest :
    (after { State.reset with phase := .sample }).map (fun t => (t.readBuf .ch0 0, t.phase, (t.channels.get .ch0).slicePos))
    = some (0#16, .parse, 1#32) := by decide +kernel
/-- PWM with period 92 and duty 50: threshold 46, so count 46 is low and count 47 is 32767 (43_waveform.md R185). -/
theorem test_sample_pwm :
    (after (withCh0 (fun c => { c with frValue := 92#16, len := 100#32, frCounter := 46#32 }) { State.reset with phase := .sample })).map
      (fun t => t.readBuf .ch0 0) = some 0#16
    ∧ (after (withCh0 (fun c => { c with frValue := 92#16, len := 100#32, frCounter := 47#32 }) { State.reset with phase := .sample })).map
      (fun t => (t.readBuf .ch0 0, (t.channels.get .ch0).frCounter)) = some (32767#16, 48#32) := by decide +kernel
/-- After the last sample of channel 0 comes channel 1's prologue, after channel 3's the mix (44_mixer_driver.md R200). -/
theorem test_sample_place :
    (after { resetWith (fun c => { c with len := 9#32 }) with phase := .sample, idx := 799 }).map
      (fun t => (t.phase, t.chan, t.idx)) = some (.prologue, .ch1, 0)
    ∧ (after { parsing [0x26#8] with chan := .ch3, idx := 799 }).map (fun t => (t.phase, t.chan, t.idx))
      = some (.mix, .ch0, 0) := by decide +kernel
/-- 43_waveform.md R190: `w = -804` at volumes 12 and 15 gives -516, `w = 32767` at 8 and 15 gives 9343. -/
theorem test_scale : scale defaultConfig 12#4 15#4 (-804) = -516 ∧ scale defaultConfig 8#4 15#4 32767 = 9343 := by decide +kernel
/-- One voice at full scale and three silent give 8191 = 0x1FFF in both halves (44_mixer_driver.md R204, R205);
a status with bit 2 set waits (R207). -/
theorem test_mix :
    (after { State.reset with phase := .mix, sinkStatus := [0x3], buf := ⟨[(0, 32767#16)], [(0, 0#16)], [(0, 0#16)], [(0, 0#16)]⟩ }).map
      (fun t => (t.sent, t.idx)) = some ([0x1FFF1FFF#32], 1)
    ∧ (after { State.reset with phase := .mix, sinkStatus := [0x4] }).map (fun t => (t.sent, t.idx, t.sinkStatus)) = some ([], 0, []) := by
  decide +kernel

/-- The block between transactions with `later` to come. -/
def asked (later : List Transaction) : State := { State.reset with hostQueue := later }

/-- The default configuration is legal, so that transactions are taken. -/
theorem test_configLegal : configLegal defaultConfig = true := by decide +kernel
/-- `SET_VOLUME(20)` stores 15 and `SET_VOLUME(7)` stores 7 (45_host_interface.md R223). -/
theorem test_setVolume :
    (after { asked [.setVolume 20] with masterVol := 3#4 }).map (·.masterVol) = some 15#4
    ∧ (after (asked [.setVolume 7])).map (·.masterVol) = some 7#4 := by decide +kernel
/-- `TICK` with `skip_counter` 2 is skipped and sets `wt_ready` (44_mixer_driver.md R201). -/
theorem test_skipped_tick :
    (after { asked [.tick] with skipCounter := 2#32 }).map (fun t => (t.skipCounter, t.wtReady, t.phase)) = some (1#32, true, .idle) := by
  decide +kernel
/-- `LOAD_MML` stores the text and resets the channel (45_host_interface.md R222). -/
theorem test_loadMml :
    (after { asked [.loadMml .ch2 [0x63#8]] with channels := State.reset.channels.set .ch2 { Channel.reset with mmlPos := 5#10 } }).map
      (fun t => (t.readMml .ch2 0, t.readMml .ch2 1, t.readMml .ch1 0, (t.channels.get .ch2).mmlPos))
    = some (0x63#8, 0x00#8, 0x72#8, 0#10) := by decide +kernel
/-- A word placed by `withFetchWord` runs as the next token, right after reset. -/
theorem test_withFetchWord :
    ch0After (State.reset.withFetchWord 16 0x3454) = ch0After (parsing [0x54#8, 0x34#8]) := by decide +kernel

/-! Witnesses: concrete states and operands that meet the hypotheses of each statement that has any, at boundary
values of each clause's range. -/

theorem test_witness_SkipTokensAreTheOtherBytes :
    isSkipByte 0x01#8 = true ∧ isSkipByte 0xFF#8 = true ∧ isSkipByte 0x00#8 = false ∧ isSkipByte 0x78#8 = false := by decide
/-- `c--`, `c4..`, `c4#`, `r#`, `l4.` and `&4`: the byte that follows is one the token would not take. -/
theorem test_witness_DecodeOfEncode :
    Instr.wellFormed (.c .lower .flat [] false) = true ∧ stillTakes (.c .lower .flat [] false) 0x2D#8 = false
    ∧ Instr.wellFormed (.c .lower .natural [4] true) = true ∧ stillTakes (.c .lower .natural [4] true) 0x2E#8 = false
    ∧ stillTakes (.c .lower .natural [4] false) 0x23#8 = false ∧ stillTakes (.r .lower [] false) 0x23#8 = false
    ∧ stillTakes (.l .lower [4]) 0x2E#8 = false ∧ stillTakes .tie 0x34#8 = false
    ∧ ∀ byte, List.head? ([] : List Byte) = some byte → stillTakes .eos byte = false :=
  ⟨by decide, by decide, by decide, by decide, by decide, by decide, by decide, by decide, by simp⟩
/-- What a token would still take: an accidental, a digit or a dot after `c`, no accidental after `c4`. -/
theorem test_stillTakes :
    stillTakes (.c .lower .natural [] false) 0x23#8 = true ∧ stillTakes (.c .lower .sharp [] false) 0x34#8 = true
    ∧ stillTakes (.c .lower .natural [4] false) 0x2E#8 = true ∧ stillTakes (.r .lower [] false) 0x2E#8 = true
    ∧ stillTakes (.t .lower [6]) 0x30#8 = true := by decide
theorem test_witness_EncodeOfDecode :
    [0x63#8] ≠ ([] : List Byte) ∧ (0x63#8 :: List.replicate 511 0x31#8).length ≤ 512 := by decide +kernel
theorem test_witness_StepRunsTheDecodedToken :
    (parsing [0x63#8]).phase = .parse ∧ ((parsing [0x63#8]).channels.get .ch0).mmlPos.toNat ≤ 512
    ∧ (decode (parsing [0x63#8]).textAhead).1 = .c .lower .natural [] false
    ∧ decode (withCh0 (fun c => { c with mmlPos := 512#10 }) (parsing [0x63#8])).textAhead = (.eos, []) := by decide +kernel
/-- A program memory filled with `n = 512` bytes, none of them 0x00, is text to its end. -/
theorem textLength_full (n : Nat) (hn : n = mmlMax) : (Memory.load (List.replicate n 0x63#8)).textLength = n := by
  have hload : Memory.load (List.replicate n 0x63#8) = Memory.cellsFrom 0 (List.replicate n 0x63#8) :=
    congrArg _ (List.take_of_length_le (List.length_replicate.trans hn).le)
  have hf := fetch_textLength (Memory.load (List.replicate n 0x63#8))
  refine ((textLength_le _).antisymm (not_lt.mp fun hlt => ?_)).trans hn.symm
  have hr := read_cellsFrom 0 (Memory.load (List.replicate n 0x63#8)).textLength (List.replicate n 0x63#8)
  rw [Nat.zero_add, List.getD_eq_getElem _ _ (lt_of_lt_of_eq hlt (hn.symm.trans List.length_replicate.symm)), List.getElem_replicate] at hr
  rw [Memory.fetch, if_pos hlt] at hf
  rw [← hload] at hr
  exact absurd (hr.symm.trans hf) (by decide)
theorem test_witness_FetchReadsTheChannelsOwnMemory :
    0 < 512 - (State.reset.channels.get State.reset.chan).mmlPos.toNat ∧ (Memory.load [0x63#8]).textLength = 1
    ∧ 512 ≤ (Memory.load (List.replicate 512 0x63#8)).textLength :=
  ⟨by decide +kernel, by decide +kernel, (textLength_full 512 rfl).ge⟩
theorem test_witness_NoteLengthLaw : 1 ≤ 65535 ∧ numberOf [1] ≠ 0 ∧ numberOf [9, 9, 9, 9, 9] ≠ 0 := by decide
theorem test_witness_NoteStartsFresh : (0, Instr.c) ∈ noteTokens ∧ (11, Instr.b) ∈ noteTokens
    ∧ (0x43#8, 0x63#8, Instr.c) ∈ noteLetters ∧ (0x42#8, 0x62#8, Instr.b) ∈ noteLetters
    ∧ (State.reset.channels.get State.reset.chan).tie = false :=
  ⟨by simp [noteTokens], by simp [noteTokens], by simp [noteLetters], by simp [noteLetters], by decide⟩
theorem test_witness_NoteBindsTie : ((resetWith fun c => { c with tie := true }).channels.get .ch0).tie = true
    ∧ (resetWith fun c => { c with tie := true }).chan = .ch0 := by decide
theorem test_witness_OutOfRangeNotesAreRests :
    ((resetWith fun c => { c with octave := 7#3 }).channels.get .ch0).octave = 7#3
    ∧ ((resetWith fun c => { c with octave := 0#3 }).channels.get .ch0).octave = 0#3
    ∧ ((resetWith fun c => { c with octave := 6#3 }).channels.get .ch0).octave = 6#3 := by decide
theorem test_witness_EosWrapsToIndexZero :
    (withCh0 (fun c => { c with mmlPos := 1#10 }) (parsing [0x63#8])).phase = .parse
    ∧ ((withCh0 (fun c => { c with mmlPos := 1#10 }) (parsing [0x63#8])).channels.get .ch0).mmlPos.toNat
      = ((parsing [0x63#8]).mml.get .ch0).textLength
    ∧ ((withCh0 (fun c => { c with mmlPos := 512#10 }) (parsing (List.replicate 512 0x63#8))).channels.get .ch0).mmlPos.toNat
      = ((parsing (List.replicate 512 0x63#8)).mml.get .ch0).textLength :=
  ⟨by decide +kernel, by decide +kernel, (textLength_full 512 rfl).symm⟩
theorem test_witness_PrologueModulatesTheChannel : { State.reset with phase := .prologue }.phase = Phase.prologue := rfl
theorem test_witness_Envelope :
    { Channel.reset with envNo := 1#8 }.envNo = 1#8 ∧ { Channel.reset with envNo := 2#8 }.envNo = 2#8
    ∧ { Channel.reset with envNo := 3#8 }.envNo = 3#8 ∧ 1 ≤ Channel.reset.envLen.toNat ∧ Channel.reset.framePos = 0#32
    ∧ 4294967295 < 2 ^ 32 ∧ Channel.reset.envNo.toNat = 0 ∧ 4 ≤ { Channel.reset with envNo := 4#8 }.envNo.toNat
    ∧ Channel.reset.pitchNo.toNat = 0 ∧ 4 ≤ { Channel.reset with pitchNo := 255#8 }.pitchNo.toNat := by decide
/-- Vibrato: the last step before the onset, the first from it on, and one with the counter saturated. -/
theorem test_witness_VibratoAlternatesAfterOnset :
    { Channel.reset with pitchNo := 1#8, framePos := 6#32 }.framePos.toNat + 1 < 8
    ∧ 8 ≤ { Channel.reset with pitchNo := 1#8, framePos := 7#32 }.framePos.toNat + 1
    ∧ 8 ≤ min ({ Channel.reset with pitchNo := 1#8, framePos := 4294967295#32 }.framePos.toNat + 1) 4294967295
    ∧ 1 ≤ { Channel.reset with pitchNo := 1#8, framePos := 7#32 }.envLen.toNat := by decide
theorem test_witness_DrumAndSweepAccumulate :
    { Channel.reset with pitchNo := 2#8 }.pitchNo = 2#8 ∧ { Channel.reset with pitchNo := 3#8 }.pitchNo = 3#8
    ∧ 1 ≤ Channel.reset.envLen.toNat ∧ Channel.reset.framePos = 0#32 ∧ Channel.reset.frTune = 0#32 ∧ 4294967295 < 2 ^ 32 := by decide
/-- One step in mid-note: 95_test_vectors.md 2.9, drum pitch-up from `fr_tune` 2,147,483,637 saturates, and shape 3 of
the envelope steps where `frame_pos` reaches a multiple of `env_len`. -/
theorem test_modulate_midnote :
    (modulate { Channel.reset with pitchNo := 2#8, tuneDepth := 65535#16, framePos := 7#32, frTune := 2147483637#32 }).frTune.toInt = 2147483647
    ∧ (modulate { Channel.reset with envNo := 3#8, envLen := 6#16, framePos := 11#32, intVol := 9#4 }).intVol = 8#4
    ∧ (modulate { Channel.reset with envNo := 3#8, envLen := 6#16, framePos := 12#32, intVol := 9#4 }).intVol = 9#4 := by decide +kernel
theorem test_witness_Phase :
    1 ≤ effectivePeriod { Channel.reset with frValue := 1#16 } ∧ { Channel.reset with frValue := 1#16 }.frCounter = 0#32
    ∧ effectivePeriod Channel.reset < 1 := by decide
/-- PWM: the ends of the duty range, the gate at its edge, and the last timbre below the wavetables. -/
theorem test_witness_PwmDutyCount :
    { Channel.reset with toneNo := 2#8 }.toneNo.toNat < 3 ∧ Channel.reset.toneNo.toNat < 3 ∧
    1 ≤ { Channel.reset with pwmRate := 1#7 }.pwmRate.toNat ∧ { Channel.reset with pwmRate := 99#7 }.pwmRate.toNat ≤ 99
    ∧ { Channel.reset with len := 8#32, slicePos := 8#32 }.slicePos.toNat
      ≤ { Channel.reset with len := 8#32, slicePos := 8#32 }.len.toNat * { Channel.reset with len := 8#32, slicePos := 8#32 }.toneRate.toNat / 8 := by
  decide
theorem test_witness_TableIndexInRange : 91 < 92 ∧ 3 ≤ { Channel.reset with toneNo := 3#8 }.toneNo.toNat
    ∧ { Channel.reset with toneNo := 6#8 }.toneNo.toNat ≤ 6 ∧ 7 ≤ { Channel.reset with toneNo := 7#8 }.toneNo.toNat := by decide
theorem test_witness_ScalingStaysInSampleRange :
    configLegal defaultConfig = true ∧ (-32768 : Int) ≤ 32767 ∧ (-32768 : Int) ≤ -32768 :=
  ⟨test_configLegal, by decide, by decide⟩
/-- A sample step at the first and at the last index of the buffer, of a rest and of a tone. -/
theorem test_witness_SampleSteps :
    { State.reset with phase := .sample }.phase = Phase.sample ∧ { State.reset with phase := .sample, idx := 1199 }.idx < 1200
    ∧ ({ State.reset with phase := .sample }.channels.get .ch0).frValue = 0#16
    ∧ ((resetWith fun c => { c with frValue := 92#16 }).channels.get .ch0).frValue ≠ 0#16
    ∧ ({ resetWith (fun c => { c with frValue := 92#16 }) with phase := .sample, idx := 1199 }).phase = Phase.sample := by decide
/-- Reset at the start of the mix, with a sink that will answer `answers`. -/
def mixing (answers : List Nat) : State := { State.reset with phase := .mix, sinkStatus := answers }
theorem test_witness_PollWaitsWhileBusy :
    (mixing [8]).phase = .mix ∧ (mixing [8]).idx < 1200 ∧ (mixing [8]).sinkStatus = 8 :: [] ∧ Nat.testBit 8 3 = true
    ∧ Nat.testBit 4 2 = true ∧ Nat.testBit 3 3 = false ∧ Nat.testBit 3 2 = false := by decide
theorem test_witness_MixSendsEveryFrameInOrder :
    let s : State := { mixing [0, 3, 8] with cfg := { defaultConfig with nTick := 2 } }
    s.phase = .mix ∧ s.idx = 0 ∧ 1 ≤ s.cfg.nTick ∧ s.cfg.nTick ≤ 1200 ∧ s.sinkStatus = [0, 3] ++ [8]
    ∧ [0, 3].length = s.cfg.nTick ∧ ∀ status ∈ [0, 3], busy status = false := by decide
theorem test_witness_SinkNeverReadyHangs :
    (mixing [4, 8, 12]).phase = .mix ∧ (mixing [4, 8, 12]).idx < 1200
    ∧ ∀ status ∈ (mixing [4, 8, 12]).sinkStatus, busy status = true := by decide
theorem test_witness_TickStartsOrIsSkipped :
    (asked [.tick]).phase = .idle ∧ configLegal (asked [.tick]).cfg = true ∧ (asked [.tick]).hostQueue = .tick :: []
    ∧ (asked [.tick]).skipCounter = 0#32 ∧ 0 < { asked [.tick] with skipCounter := 1#32 }.skipCounter.toNat :=
  ⟨rfl, test_configLegal, rfl, rfl, by decide⟩
theorem test_witness_SkippedTicksOnlyCountDown :
    (asked [.tick, .tick, .tick]).phase = .idle ∧ configLegal (asked [.tick, .tick, .tick]).cfg = true ∧ 1 ≤ 2
    ∧ (asked [.tick, .tick, .tick]).hostQueue = List.replicate 2 .tick ++ [.tick]
    ∧ 2 ≤ { asked [.tick, .tick, .tick] with skipCounter := 2#32 }.skipCounter.toNat
    ∧ { asked [.tick, .tick, .tick] with skipCounter := 2#32 }.skipCounter.toNat = 2 :=
  ⟨rfl, test_configLegal, by decide, rfl, by decide, by decide⟩
theorem test_witness_Transactions :
    (asked [.reset]).phase = .idle ∧ configLegal (asked [.reset]).cfg = true ∧ (asked [.reset]).hostQueue = .reset :: []
    ∧ (asked [.loadMml .ch3 [0x63#8]]).hostQueue = (.loadMml .ch3 [0x63#8]) :: []
    ∧ (asked [.setVolume 15]).hostQueue = (.setVolume 15) :: [] ∧ (asked [.getVolume]).hostQueue = .getVolume :: []
    ∧ (asked [.setSkip 4294967295#32]).hostQueue = (.setSkip 4294967295#32) :: [] :=
  ⟨rfl, test_configLegal, rfl, rfl, rfl, rfl, rfl⟩
/-- A step inside a tick that completes, a step between transactions with none issued, and one with a transaction. -/
theorem test_witness_OnlyTheIdleBlockTakesTransactions :
    (parsing [0x26#8]).phase ≠ .idle ∧ (after (parsing [0x26#8])).isSome = true ∧ State.reset.phase = .idle
    ∧ State.reset.hostQueue = [] ∧ (after (asked [.getVolume])).isSome = true := by decide +kernel
/-- A configuration without samples in a tick is not legal: its transactions are refused. -/
theorem test_witness_illegalConfiguration :
    let s : State := { asked [.tick] with cfg := { defaultConfig with nTick := 0 } }
    s.phase = .idle ∧ configLegal s.cfg = false ∧ s.hostQueue = .tick :: [] ∧ (after s).isSome = false := by decide +kernel

/-- The registers after reset meet the invariant, with any text. -/
theorem channelInv_reset (cfg : Config) (text : Memory) : ChannelInv cfg text Channel.reset :=
  ⟨Nat.zero_le _, by decide, by decide, by decide, by decide, by decide, by decide, Or.inl rfl, by decide⟩

/-- A state of the default configuration with the registers of reset has the invariant wherever the tick stands. -/
theorem inv_parsing (text : List Byte) : Inv (parsing text) where
  cfgLegal := test_configLegal
  channels ch := by cases ch <;> exact channelInv_reset _ _
  mmlWf ch := by
    cases ch
    · exact load_wf text
    · exact (reset_memories_wf defaultConfig .ch1).1
    · exact (reset_memories_wf defaultConfig .ch2).1
    · exact (reset_memories_wf defaultConfig .ch3).1
  bufWf ch := by cases ch <;> rfl
  idxInTick := show 0 < defaultConfig.nTick by decide

theorem test_witness_StepKeepsTheInvariant :
    Inv (parsing [0x26#8]) ∧ (after (parsing [0x26#8])).isSome = true := ⟨inv_parsing _, by decide +kernel⟩
theorem test_witness_NoFaultUnderTheInvariant : Inv (parsing [0x63#8]) := inv_parsing _
/-- The text `t4` holds no note and no rest. -/
theorem test_witness_TextWithoutNotesHangsTheParser :
    Inv (parsing [0x74#8, 0x34#8]) ∧ (parsing [0x74#8, 0x34#8]).phase = .parse
    ∧ ¬ Playable ((parsing [0x74#8, 0x34#8]).mml.get (parsing [0x74#8, 0x34#8]).chan) := by
  refine ⟨inv_parsing _, rfl, ?_⟩
  rintro ⟨i, hi, hp⟩
  have hlen : ((parsing [0x74#8, 0x34#8]).mml.get (parsing [0x74#8, 0x34#8]).chan).textLength = 2 := by decide +kernel
  rw [hlen] at hi
  have hall : ∀ k < 2, isPlayableByte (((parsing [0x74#8, 0x34#8]).mml.get .ch0).read k) = false := by decide +kernel
  have := hall i hi
  simp_all [parsing, State.reset, State.resetOf]
theorem test_witness_TextWithANoteEndsTheParse :
    Inv (parsing [0x74#8, 0x63#8]) ∧ (parsing [0x74#8, 0x63#8]).phase = .parse
    ∧ Playable ((parsing [0x74#8, 0x63#8]).mml.get .ch0) :=
  ⟨inv_parsing _, rfl, 1, by decide +kernel, by decide +kernel⟩
/-- The block after reset with `c` in channel 0, a tick to come, and a sink that is always ready. -/
def readyTick : State :=
  { parsing [0x63#8] with phase := .idle, hostQueue := [.tick], sinkStatus := List.replicate 800 0 }
theorem test_witness_TickCompletesWithReadySink :
    Inv readyTick ∧ readyTick.phase = .idle ∧ readyTick.hostQueue = .tick :: [] ∧ readyTick.skipCounter = 0#32
    ∧ (∀ ch, Playable (readyTick.mml.get ch)) ∧ readyTick.sinkStatus = List.replicate 800 0 ++ []
    ∧ (List.replicate 800 0).length = readyTick.cfg.nTick ∧ ∀ status ∈ List.replicate 800 0, busy status = false := by
  have hi := inv_parsing [0x63#8]
  refine ⟨⟨hi.cfgLegal, hi.channels, hi.mmlWf, hi.bufWf, hi.idxInTick⟩, rfl, rfl, rfl, ?_, (List.append_nil _).symm, ?_, ?_⟩
  · intro ch
    cases ch <;> exact ⟨0, by decide +kernel, by decide +kernel⟩
  · rw [List.length_replicate]; rfl
  · intro status h; rw [List.eq_of_mem_replicate h]; rfl
/-- Two states that agree on channel 0 and differ elsewhere. -/
theorem test_witness_ChannelsDoNotInterfere :
    let s := parsing [0x63#8]
    let s' : State := { s with skipCounter := 9#32, channels := s.channels.set .ch1 { Channel.reset with tie := true } }
    SamePlace s s' ∧ SameVoice s.chan s s' ∧ s ≠ s' ∧ s.phase ≠ .idle ∧ s.phase ≠ .mix ∧ (after s).isSome = true := by
  refine ⟨⟨rfl, rfl, rfl⟩, ⟨rfl, rfl, rfl, rfl, rfl⟩, fun h => ?_, by decide, by decide, by decide +kernel⟩
  exact absurd (congrArg State.skipCounter h) (by decide)
theorem test_witness_OtherChannelsAreUntouched :
    (parsing [0x63#8]).phase ≠ .idle ∧ (parsing [0x63#8]).phase ≠ .mix ∧ (after (parsing [0x63#8])).isSome = true
    ∧ (mixing [4]).phase = .mix ∧ (after (mixing [4])).isSome = true := by decide +kernel

end Sys2Proof.Tests
end

section
/-! PROOF. What the decoder reads back: the token it finds spells exactly the bytes it took, it is well
formed, and no byte of it after the opcode byte is 0x00 (30_encoding.md R92 to R98). -/

namespace Sys2Proof

open Machine

/-! ### Each scanner splits its text into what it took and what it left -/

theorem takeAccidental_splits (text : List Byte) :
    encodeAccidental (takeAccidental text).1 ++ (takeAccidental text).2 = text := by
  cases text with
  | nil => rfl
  | cons byte rest =>
    simp only [takeAccidental]
    split
    · simp_all [encodeAccidental]
    · split
      · simp_all [encodeAccidental]
      · split <;> simp_all [encodeAccidental]

theorem takeDigits_splits (text : List Byte) :
    encodeDigits (takeDigits text).1 ++ (takeDigits text).2 = text := by
  induction text with
  | nil => rfl
  | cons byte rest ih =>
    simp only [takeDigits]
    split
    next hd =>
      simp only [isDigitByte, Bool.and_eq_true, decide_eq_true_eq] at hd
      have hbyte : BitVec.ofNat 8 (0x30 + (byte.toNat - 0x30)) = byte := by
        rw [Nat.add_sub_cancel' hd.1, BitVec.ofNat_toNat, BitVec.setWidth_eq]
      simp only [encodeDigits, List.map_cons, List.cons_append, hbyte, List.cons.injEq, true_and]
      exact ih
    next => rfl

theorem takeDigits_digitsOk (text : List Byte) : digitsOk (takeDigits text).1 = true := by
  induction text with
  | nil => rfl
  | cons byte rest ih =>
    simp only [takeDigits]
    split
    next hd =>
      simp only [isDigitByte, Bool.and_eq_true, decide_eq_true_eq] at hd
      simp only [digitsOk, List.all_cons, Bool.and_eq_true, decide_eq_true_eq]
      exact ⟨by omega, ih⟩
    next => rfl

theorem takeDot_splits (text : List Byte) : encodeDot (takeDot text).1 ++ (takeDot text).2 = text := by
  cases text with
  | nil => rfl
  | cons byte rest =>
    simp only [takeDot]
    split <;> simp_all [encodeDot]

/-! ### The parts of a suffix: their sizes, and that they hold no 0x00 -/

theorem length_encodeAccidental (acc : Accidental) : (encodeAccidental acc).length = accidentalSize acc := by
  cases acc <;> rfl

theorem length_encodeDigits (digits : List Nat) : (encodeDigits digits).length = digits.length := List.length_map _

theorem length_encodeDot (dot : Bool) : (encodeDot dot).length = dotSize dot := by cases dot <;> rfl

theorem marksOf_eq_sizes (acc : Accidental) (dot : Bool) : marksOf acc dot = accidentalSize acc + dotSize dot := by
  cases acc <;> rfl

theorem zero_notMem_encodeAccidental (acc : Accidental) : 0x00#8 ∉ encodeAccidental acc := by cases acc <;> decide

theorem zero_notMem_encodeDot (dot : Bool) : 0x00#8 ∉ encodeDot dot := by cases dot <;> decide

/-- A digit is written as a byte 0x30 to 0x39. -/
theorem zero_notMem_encodeDigits {digits : List Nat} (h : digitsOk digits = true) : 0x00#8 ∉ encodeDigits digits := by
  intro hmem
  obtain ⟨n, hn, hzero⟩ := List.mem_map.1 hmem
  have hlt : n < 10 := of_decide_eq_true (List.all_eq_true.1 h n hn)
  have hnat := congrArg BitVec.toNat hzero
  simp only [BitVec.toNat_ofNat] at hnat
  omega

/-- The length in bytes of a token (30_encoding.md R93). -/
def tokenSize : Instr → Nat
  | .c _ acc digits dot => noteSize acc digits dot
  | .d _ acc digits dot => noteSize acc digits dot
  | .e _ acc digits dot => noteSize acc digits dot
  | .f _ acc digits dot => noteSize acc digits dot
  | .g _ acc digits dot => noteSize acc digits dot
  | .a _ acc digits dot => noteSize acc digits dot
  | .b _ acc digits dot => noteSize acc digits dot
  | .r _ digits dot => restSize digits dot
  | .t _ digits => numSize digits
  | .l _ digits => numSize digits
  | .o _ digits => numSize digits
  | .v _ digits => numSize digits
  | .x _ digits => numSize digits
  | .q _ digits => numSize digits
  | .s _ digits => numSize digits
  | .m _ digits => numSize digits
  | .tone digits => numSize digits
  | .p _ digits => numSize digits
  | .h _ digits => numSize digits
  | .tie => 1
  | .octUp => 1
  | .octDown => 1
  | .eos => 1
  | .skip _ => 1

theorem length_encodeNote (upper : Byte) (k : LetterCase) (acc : Accidental) (digits : List Nat) (dot : Bool) :
    (encodeNote upper k acc digits dot).length = noteSize acc digits dot := by
  simp only [encodeNote, noteSize, List.length_cons, List.length_append, length_encodeAccidental, length_encodeDigits,
    length_encodeDot]
  omega

theorem length_encodeNum (upper : Byte) (k : LetterCase) (digits : List Nat) :
    (encodeNum upper k digits).length = numSize digits := by
  simp only [encodeNum, numSize, List.length_cons, length_encodeDigits]
  omega

/-- The encoder writes as many bytes as the token is long. -/
theorem length_encode (i : Instr) : (encode i).length = tokenSize i := by
  cases i with
  | r k digits dot =>
    simp only [encode, tokenSize, restSize, List.length_cons, List.length_append, length_encodeDigits, length_encodeDot]
    omega
  | tone digits =>
    simp only [encode, tokenSize, numSize, List.length_cons, length_encodeDigits]
    omega
  | tie | octUp | octDown | eos | skip => rfl
  | c | d | e | f | g | a | b => exact length_encodeNote ..
  | _ => exact length_encodeNum ..

/-! ### The decoder -/

/-- The opcode byte that the encoder writes for a token of row `op` read from `byte`: of `byte` only the letter's
case is used, and all of it for a skip token (30_encoding.md R91, R97). -/
def respell : Opcode → Byte → Byte
  | .c, byte => letterByte 0x43#8 (letterCase byte)
  | .d, byte => letterByte 0x44#8 (letterCase byte)
  | .e, byte => letterByte 0x45#8 (letterCase byte)
  | .f, byte => letterByte 0x46#8 (letterCase byte)
  | .g, byte => letterByte 0x47#8 (letterCase byte)
  | .a, byte => letterByte 0x41#8 (letterCase byte)
  | .b, byte => letterByte 0x42#8 (letterCase byte)
  | .r, byte => letterByte 0x52#8 (letterCase byte)
  | .tie, _ => 0x26#8
  | .t, byte => letterByte 0x54#8 (letterCase byte)
  | .l, byte => letterByte 0x4C#8 (letterCase byte)
  | .o, byte => letterByte 0x4F#8 (letterCase byte)
  | .octUp, _ => 0x3E#8
  | .octDown, _ => 0x3C#8
  | .v, byte => letterByte 0x56#8 (letterCase byte)
  | .x, byte => letterByte 0x58#8 (letterCase byte)
  | .q, byte => letterByte 0x51#8 (letterCase byte)
  | .s, byte => letterByte 0x53#8 (letterCase byte)
  | .m, byte => letterByte 0x4D#8 (letterCase byte)
  | .tone, _ => 0x40#8
  | .p, byte => letterByte 0x50#8 (letterCase byte)
  | .h, byte => letterByte 0x48#8 (letterCase byte)
  | .eos, _ => 0x00#8
  | .skip, byte => byte

/-- The row and the letter's case together keep the whole opcode byte. -/
theorem respell_classify (byte : Byte) : respell (classify byte) byte = byte :=
  beq_iff_eq.1 (forall_byte (fun b => respell (classify b) b == b) (by decide +kernel) byte)

/-- `d` is a right reading of `text`: a token and what follows it. -/
structure Reads (text : List Byte) (d : Instr × List Byte) : Prop where
  /-- no byte of the text is dropped -/
  whole : encode d.1 ++ d.2 = text
  /-- a text that fits a program memory holds well-formed tokens only -/
  wellFormed : text.length ≤ mmlMax → d.1.wellFormed = true
  /-- the end-of-string code is never part of a suffix -/
  suffixNonzero : 0x00#8 ∉ (encode d.1).tail

theorem decodeNote_reads {upper byte : Byte} {k : LetterCase} {rest : List Byte} {mk : Accidental → List Nat → Bool → Instr}
    (hbyte : letterByte upper k = byte)
    (henc : ∀ acc digits dot, encode (mk acc digits dot) = encodeNote upper k acc digits dot)
    (hwf : ∀ acc digits dot, (mk acc digits dot).wellFormed = suffixOk (marksOf acc dot) digits) :
    Reads (byte :: rest) (decodeNote mk rest) := by
  have hacc := takeAccidental_splits rest
  have hnum := takeDigits_splits (takeAccidental rest).2
  have hdot := takeDot_splits (takeDigits (takeAccidental rest).2).2
  have hok := takeDigits_digitsOk (takeAccidental rest).2
  refine ⟨?_, fun hlen => ?_, ?_⟩
  · simp only [decodeNote, henc, encodeNote, hbyte, List.cons_append, List.append_assoc, hdot, hnum, hacc]
  · rw [← hacc, ← hnum, ← hdot] at hlen
    simp only [List.length_cons, List.length_append, length_encodeAccidental, length_encodeDigits, length_encodeDot] at hlen
    simp only [decodeNote, hwf, suffixOk, hok, marksOf_eq_sizes, Bool.true_and, decide_eq_true_eq]
    omega
  · simp only [decodeNote, henc, encodeNote, List.tail_cons, List.mem_append, not_or]
    exact ⟨zero_notMem_encodeAccidental _, zero_notMem_encodeDigits hok, zero_notMem_encodeDot _⟩

theorem decodeRest_reads {upper byte : Byte} {k : LetterCase} {rest : List Byte} {mk : List Nat → Bool → Instr}
    (hbyte : letterByte upper k = byte)
    (henc : ∀ digits dot, encode (mk digits dot) = letterByte upper k :: (encodeDigits digits ++ encodeDot dot))
    (hwf : ∀ digits dot, (mk digits dot).wellFormed = suffixOk (marksOf .natural dot) digits) :
    Reads (byte :: rest) (decodeRest mk rest) := by
  have hnum := takeDigits_splits rest
  have hdot := takeDot_splits (takeDigits rest).2
  have hok := takeDigits_digitsOk rest
  refine ⟨?_, fun hlen => ?_, ?_⟩
  · simp only [decodeRest, henc, hbyte, List.cons_append, List.append_assoc, hdot, hnum]
  · rw [← hnum, ← hdot] at hlen
    simp only [List.length_cons, List.length_append, length_encodeDigits, length_encodeDot] at hlen
    simp only [decodeRest, hwf, suffixOk, hok, marksOf_eq_sizes, accidentalSize, Bool.true_and, decide_eq_true_eq]
    omega
  · simp only [decodeRest, henc, List.tail_cons, List.mem_append, not_or]
    exact ⟨zero_notMem_encodeDigits hok, zero_notMem_encodeDot _⟩

theorem decodeNum_reads {first byte : Byte} {rest : List Byte} {mk : List Nat → Instr}
    (hbyte : first = byte) (henc : ∀ digits, encode (mk digits) = first :: encodeDigits digits)
    (hwf : ∀ digits, (mk digits).wellFormed = suffixOk 0 digits) :
    Reads (byte :: rest) (decodeNum mk rest) := by
  have hnum := takeDigits_splits rest
  have hok := takeDigits_digitsOk rest
  refine ⟨?_, fun hlen => ?_, ?_⟩
  · simp only [decodeNum, henc, hbyte, List.cons_append, hnum]
  · rw [← hnum] at hlen
    simp only [List.length_cons, List.length_append, length_encodeDigits] at hlen
    simp only [decodeNum, hwf, suffixOk, hok, Bool.true_and, decide_eq_true_eq]
    omega
  · simp only [decodeNum, henc, List.tail_cons]
    exact zero_notMem_encodeDigits hok

/-- A token of one byte without a suffix. -/
theorem single_reads {i : Instr} {first byte : Byte} {rest : List Byte} (hbyte : first = byte)
    (henc : encode i = [first]) (hwf : i.wellFormed = true) : Reads (byte :: rest) (i, rest) :=
  ⟨by simp only [henc, hbyte, List.singleton_append], fun _ => hwf, by simp [henc]⟩

/-- The decoder reads every text rightly, by the format of the token that the opcode byte selects. -/
theorem decode_reads (byte : Byte) (rest : List Byte) : Reads (byte :: rest) (decode (byte :: rest)) := by
  have hspell := respell_classify byte
  simp only [decode]
  cases hop : classify byte <;> rw [hop] at hspell
  case r => exact decodeRest_reads hspell (fun _ _ => rfl) (fun _ _ => rfl)
  case tie => exact single_reads hspell rfl rfl
  case octUp => exact single_reads hspell rfl rfl
  case octDown => exact single_reads hspell rfl rfl
  case eos => exact single_reads hspell rfl rfl
  case skip => exact single_reads rfl rfl ((classify_skip_iff byte).1 hop)
  case c | d | e | f | g | a | b => exact decodeNote_reads hspell (fun _ _ _ => rfl) (fun _ _ _ => rfl)
  all_goals exact decodeNum_reads hspell (fun _ => rfl) (fun _ => rfl)

theorem decode_zero (rest : List Byte) : decode (0x00#8 :: rest) = (.eos, rest) := rfl

/-- A token other than the end of the string is spelled at the head of its text, without a 0x00. -/
theorem encode_decode_prefix {text : List Byte} (h : (decode text).1 ≠ .eos) :
    encode (decode text).1 <+: text ∧ 0x00#8 ∉ encode (decode text).1 := by
  cases text with
  | nil => exact absurd rfl h
  | cons byte rest =>
    obtain ⟨hwhole, -, hsuffix⟩ := decode_reads byte rest
    refine ⟨⟨_, hwhole⟩, ?_⟩
    have hbyte : 0x00#8 ≠ byte := fun hzero => h (by rw [← hzero, decode_zero])
    revert hwhole hsuffix
    cases encode (decode (byte :: rest)).1 with
    | nil => simp
    | cons first suffix =>
      intro hwhole hsuffix
      have hfirst : first = byte := (List.cons.inj hwhole).1
      simpa [hfirst, hbyte] using hsuffix

end Sys2Proof
end

section
/-! PROOF. The invariant of 10_state.md R50: what each register write, each token, each part of a tick and each
transaction keeps of it, and from these that every step keeps it. -/

namespace Sys2Proof.Machine

/-! ### Operand ranges (41_mml_commands.md R133) -/

/-- A parsed number fits 16 bits (30_encoding.md R95). -/
theorem parseNum_le {digits : List Nat} {n : Nat} (h : parseNum digits = some n) : n ≤ 65535 := by
  have hstep : ∀ (rest : List Nat) (start : Nat), start ≤ 65535 → rest.foldl numStep start ≤ 65535 := by
    intro rest
    induction rest with
    | nil => exact fun _ hstart => hstart
    | cons digit rest ih => exact fun start _ => ih _ (Nat.min_le_right _ _)
  cases digits with
  | nil => cases h
  | cons digit rest => exact Option.some.inj h ▸ hstep (digit :: rest) 0 (Nat.zero_le _)

theorem tempoOperand_pos (digits : List Nat) : 1 ≤ (tempoOperand (parseNum digits)).toNat := by
  cases hnum : parseNum digits with
  | none => decide
  | some n =>
    have hle := parseNum_le hnum
    simp only [tempoOperand]
    split
    · rw [BitVec.toNat_ofNat]; omega
    · decide

theorem keylenOperand_pos (digits : List Nat) : 1 ≤ (keylenOperand (parseNum digits)).toNat := by
  cases hnum : parseNum digits with
  | none => decide
  | some n =>
    have hle := parseNum_le hnum
    simp only [keylenOperand]
    split
    · rw [BitVec.toNat_ofNat]; omega
    · decide

theorem envLenOperand_pos (digits : List Nat) : 1 ≤ (envLenOperand (parseNum digits)).toNat := by
  cases hnum : parseNum digits with
  | none => decide
  | some n =>
    have hle := parseNum_le hnum
    simp only [envLenOperand, BitVec.toNat_ofNat]
    omega

theorem gateOperand_range (num : Option Nat) : 1 ≤ (gateOperand num).toNat ∧ (gateOperand num).toNat ≤ 8 := by
  cases num with
  | none => decide
  | some n => simp only [gateOperand, clamp, BitVec.toNat_ofNat]; omega

theorem pwmOperand_range (num : Option Nat) : 1 ≤ (pwmOperand num).toNat ∧ (pwmOperand num).toNat ≤ 99 := by
  cases num with
  | none => decide
  | some n => simp only [pwmOperand, clamp, BitVec.toNat_ofNat]; omega

/-- A note stores the sentinel or a table entry (10_state.md R50 (f)). -/
theorem notePeriodOf_known (cfg : Config) (idx : Int) :
    notePeriodOf cfg idx = sentinelNoTone ∨ notePeriodOf cfg idx ∈ cfg.notePeriod := by
  unfold notePeriodOf notePeriodAt
  split
  · rw [List.getD_eq_getElem?_getD]
    cases hentry : cfg.notePeriod[idx.toNat]? with
    | none => exact Or.inl rfl
    | some period => exact Or.inr (List.mem_of_getElem? hentry)
  · exact Or.inl rfl

/-- The note-length function fits the register it is stored in. -/
theorem toNat_ofNat_dur (tempo denominator : Nat) : (BitVec.ofNat 32 (dur tempo denominator)).toNat = dur tempo denominator := by
  have := dur_le tempo denominator
  rw [BitVec.toNat_ofNat]
  omega

/-! ### One channel's registers: what each write keeps -/

section
variable {cfg : Config} {text : Memory} {c : Channel}

/-- The registers after reset meet the invariant with any text. -/
theorem ChannelInv.of_reset : ChannelInv cfg text Channel.reset where
  posInText := Nat.zero_le _
  tempoPos := by decide
  keylenPos := by decide
  defLenIsDur := by decide
  gateRange := by decide
  dutyRange := by decide
  envLenPos := by decide
  periodKnown := Or.inl rfl
  tuneRange := by decide

theorem ChannelInv.toStart (h : ChannelInv cfg text c) : ChannelInv cfg text { c with mmlPos := 0#10 } :=
  { h with posInText := Nat.zero_le _ }

theorem ChannelInv.advance (h : ChannelInv cfg text c) {n : Nat} (hn : c.mmlPos.toNat + n ≤ text.textLength) :
    ChannelInv cfg text (c.advance n) :=
  { h with
    posInText := by
      have hmax : text.textLength ≤ 512 := textLength_le text
      simp only [advance_mmlPos, BitVec.toNat_add, BitVec.toNat_ofNat]
      omega }

theorem ChannelInv.setTempo (h : ChannelInv cfg text c) {v : Half} (hv : 1 ≤ v.toNat) :
    ChannelInv cfg text { c with tempo := v, defLen := BitVec.ofNat 32 (dur v.toNat c.defKeylen.toNat) } :=
  { h with tempoPos := hv, defLenIsDur := toNat_ofNat_dur _ _ }

theorem ChannelInv.setKeylen (h : ChannelInv cfg text c) {v : Half} (hv : 1 ≤ v.toNat) :
    ChannelInv cfg text { c with defKeylen := v, defLen := BitVec.ofNat 32 (dur c.tempo.toNat v.toNat) } :=
  { h with keylenPos := hv, defLenIsDur := toNat_ofNat_dur _ _ }

theorem ChannelInv.setPeriod (h : ChannelInv cfg text c) {v : Half} (hv : v = sentinelNoTone ∨ v ∈ cfg.notePeriod) :
    ChannelInv cfg text { c with frValue := v } :=
  { h with periodKnown := hv }

/-- `StartOrTie` keeps the registers the invariant speaks of, but for a fresh note's pitch offset of 0. -/
theorem ChannelInv.startOrTie (h : ChannelInv cfg text c) (duration : Word) : ChannelInv cfg text (c.startOrTie duration) := by
  cases htie : c.tie with
  | true => rw [startOrTie_of_tie htie]; exact { h with }
  | false => rw [startOrTie_of_fresh htie]; exact { h with tuneRange := show -2147483647 ≤ (0#32).toInt by decide }

theorem ChannelInv.note {scale : Nat} {acc : Accidental} {digits : List Nat} {dot : Bool}
    (h : ChannelInv cfg text (c.advance (noteSize acc digits dot))) : ChannelInv cfg text (c.note cfg scale acc digits dot) :=
  (h.setPeriod (notePeriodOf_known _ _)).startOrTie _

theorem ChannelInv.rest {digits : List Nat} {dot : Bool} (h : ChannelInv cfg text (c.advance (restSize digits dot))) :
    ChannelInv cfg text (c.rest digits dot) :=
  (h.setPeriod (Or.inl rfl)).startOrTie _

/-- Every pitch shape keeps the pitch offset above its saturation bound (10_state.md R23). -/
theorem pitch_tuneRange (h : -2147483647 ≤ c.frTune.toInt) : -2147483647 ≤ (pitch c).frTune.toInt := by
  have hdepth := c.tuneDepth.isLt
  have hsat : ∀ v, -2147483647 ≤ (sats32 v).toInt := fun v => by rw [sats32_toInt]; omega
  have hvibrato : -2147483647 ≤ (pitchShape1 c).frTune.toInt := by
    unfold pitchShape1
    split <;> (rw [BitVec.toInt_ofInt_eq_self] <;> omega)
  have hdrum : -2147483647 ≤ (pitchShape2 c).frTune.toInt := by
    unfold pitchShape2
    split
    · exact hsat _
    · exact h
  have hsweep : -2147483647 ≤ (pitchShape3 c).frTune.toInt := by
    unfold pitchShape3
    split
    · exact hsat _
    · exact h
  unfold pitch
  split
  · split
    · exact hvibrato
    · exact hdrum
    · exact hsweep
    · exact h
  · exact h

theorem ChannelInv.modulate (h : ChannelInv cfg text c) : ChannelInv cfg text (modulate c) := by
  have htune : -2147483647 ≤ (Machine.modulate c).frTune.toInt := by
    rw [modulate_frTune]
    exact pitch_tuneRange h.tuneRange
  obtain ⟨v, w, hmod⟩ := modulate_frame c
  rw [hmod] at htune ⊢
  exact { h with tuneRange := htune }

theorem ChannelInv.sampled (h : ChannelInv cfg text c) (masterVol : BitVec 4) : ChannelInv cfg text (sampled cfg masterVol c) :=
  { h with }

end

/-! ### The tokens -/

/-- Every token keeps the invariant of its channel's registers, if moving past the token stays inside the text.
The end of the string does not move past itself. -/
theorem exec_keeps_channelInv {i : Instr} {s : State} {text : Memory} (h : ChannelInv s.cfg text s.cur)
    (hmoved : i ≠ .eos → ChannelInv s.cfg text (s.cur.advance (tokenSize i))) :
    ∃ c, ChannelInv s.cfg text c ∧ (exec i s = .next (s.setCur c) ∨ exec i s = .next (s.setCur c).nextSample) := by
  by_cases heos : i = .eos
  · subst heos
    exact ⟨_, h.toStart, Or.inl rfl⟩
  have hm := hmoved heos
  cases i with
  | eos => exact absurd rfl heos
  | c | d | e | f | g | a | b => exact ⟨_, hm.note, Or.inr rfl⟩
  | r => exact ⟨_, hm.rest, Or.inr rfl⟩
  | t _ digits => exact ⟨_, hm.setTempo (tempoOperand_pos digits), Or.inl rfl⟩
  | l _ digits => exact ⟨_, hm.setKeylen (keylenOperand_pos digits), Or.inl rfl⟩
  | x _ digits =>
    refine ⟨_, ?_, Or.inl rfl⟩
    exact { hm with dutyRange := pwmOperand_range (parseNum digits) }
  | q _ digits =>
    refine ⟨_, ?_, Or.inl rfl⟩
    exact { hm with gateRange := gateOperand_range (parseNum digits) }
  | m _ digits =>
    refine ⟨_, ?_, Or.inl rfl⟩
    exact { hm with envLenPos := envLenOperand_pos digits }
  | tie | o | octUp | octDown | v | s | tone | p | h | skip =>
    refine ⟨_, ?_, Or.inl rfl⟩
    exact { hm with }

/-- Bytes without a 0x00 that stand at an index of the text end inside the text (20_memory.md R62). -/
theorem add_length_le_textLength {m : Memory} {bytes : List Byte} {i n : Nat} (hprefix : bytes <+: m.bytesFrom i n)
    (hzero : 0x00#8 ∉ bytes) (hi : i ≤ m.textLength) : i + bytes.length ≤ m.textLength := by
  induction bytes generalizing i n with
  | nil => exact hi
  | cons byte rest ih =>
    cases n with
    | zero => simp [Memory.bytesFrom] at hprefix
    | succ n =>
      obtain ⟨hbyte, hrest⟩ := List.cons_prefix_cons.1 hprefix
      obtain ⟨hne, hzero⟩ := not_or.1 (mt List.mem_cons.2 hzero)
      have hend : i ≠ m.textLength := fun heq => hne (by rw [hbyte, heq, fetch_textLength])
      have := ih hrest hzero (by omega)
      simp only [List.length_cons]
      omega

/-- The token that the parser decodes ends inside the text (10_state.md R50 (a)). -/
theorem tokenSize_inText {s : State} (hpos : s.cur.mmlPos.toNat ≤ (s.mml.get s.chan).textLength)
    (hne : (decode s.textAhead).1 ≠ .eos) :
    s.cur.mmlPos.toNat + tokenSize (decode s.textAhead).1 ≤ (s.mml.get s.chan).textLength := by
  obtain ⟨hprefix, hzero⟩ := encode_decode_prefix hne
  rw [← length_encode]
  exact add_length_le_textLength hprefix hzero hpos

/-! ### The state: what each operation keeps -/

theorem configLegal_nTick {cfg : Config} (h : configLegal cfg = true) : 1 ≤ cfg.nTick ∧ cfg.nTick ≤ bufMax := by
  simp only [configLegal, Bool.and_eq_true, decide_eq_true_eq] at h
  simp only [h, and_self]

/-- The state after reset meets the invariant in every legal configuration. -/
theorem inv_resetOf {cfg : Config} (h : configLegal cfg = true) : Inv (State.resetOf cfg) where
  cfgLegal := h
  channels ch := by
    have hreset : (State.resetOf cfg).channels.get ch = Channel.reset := get_fill _ ch
    exact hreset ▸ ChannelInv.of_reset
  mmlWf ch := (reset_memories_wf cfg ch).1
  bufWf ch := (reset_memories_wf cfg ch).2
  idxInTick := (configLegal_nTick h).1

section
variable {s : State}

/-- Index 0 is inside every tick. -/
theorem Inv.nTick_pos (h : Inv s) : 0 < s.cfg.nTick := (configLegal_nTick h.cfgLegal).1

theorem Inv.cur (h : Inv s) : ChannelInv s.cfg (s.mml.get s.chan) s.cur := h.channels s.chan

theorem Inv.setCur (h : Inv s) {c : Channel} (hc : ChannelInv s.cfg (s.mml.get s.chan) c) : Inv (s.setCur c) :=
  { h with
    channels := fun ch => by
      simp only [setCur_cfg, setCur_mml, setCur_channels]
      by_cases heq : ch = s.chan
      · rw [heq, get_set_same]; exact hc
      · rw [get_set_other _ _ heq]; exact h.channels ch }

theorem Inv.writeBuf (h : Inv s) (ch : ChannelId) {i : Nat} (v : Half) (hi : i < bufMax) : Inv (s.writeBuf ch i v) :=
  { h with
    bufWf := fun other => by
      simp only [writeBuf_buf]
      by_cases heq : other = ch
      · rw [heq, get_set_same]; exact write_wf _ _ _ (h.bufWf ch) hi
      · rw [get_set_other _ _ heq]; exact h.bufWf other }

theorem Inv.nextSample (h : Inv s) : Inv s.nextSample := by
  rcases nextSample_cases s with ⟨hlt, hnext⟩ | ⟨-, ch, -, hnext⟩ | ⟨-, -, hnext⟩ <;> rw [hnext]
  · exact { h with idxInTick := hlt }
  · exact { h with idxInTick := h.nTick_pos }
  · exact { h with idxInTick := h.nTick_pos }

theorem Inv.nextFrame (h : Inv s) : Inv s.nextFrame := by
  rcases nextFrame_cases s with ⟨hlt, hnext⟩ | ⟨-, hnext⟩ <;> rw [hnext]
  · exact { h with idxInTick := hlt }
  · exact { h with idxInTick := h.nTick_pos }

theorem Inv.load (h : Inv s) (ch : ChannelId) (text : List Byte) : Inv (transactLoad ch text s) :=
  { h with
    channels := fun other => by
      simp only [transactLoad]
      by_cases heq : other = ch
      · rw [heq, get_set_same, get_set_same]; exact ChannelInv.of_reset
      · rw [get_set_other _ _ heq, get_set_other _ _ heq]; exact h.channels other
    mmlWf := fun other => by
      simp only [transactLoad]
      by_cases heq : other = ch
      · rw [heq, get_set_same]; exact load_wf text
      · rw [get_set_other _ _ heq]; exact h.mmlWf other }

theorem Inv.beginTick (h : Inv s) : Inv (beginTick s) := by
  unfold Machine.beginTick
  split
  · exact { h with }
  · exact { h with idxInTick := h.nTick_pos }

theorem Inv.transact (h : Inv s) (tr : Transaction) : Inv (transact tr s) := by
  cases tr with
  | reset => exact { inv_resetOf h.cfgLegal with }
  | loadMml ch text => exact h.load ch text
  | setVolume v => exact { h with }
  | getVolume => exact { h with }
  | setSkip n => exact { h with }
  | tick => exact h.beginTick

/-! ### The steps, by where the engine stands -/

variable {t : State}

theorem Inv.hostStep (h : Inv s) (hstep : hostStep s = .next t) : Inv t := by
  rcases hostStep_cases hstep with ⟨-, rfl⟩ | ⟨tr, later, -, -, rfl⟩
  · exact h
  · have hqueue : Inv { s with hostQueue := later } := { h with }
    exact hqueue.transact tr

theorem Inv.prologueStep (h : Inv s) : Inv (prologueStep s) :=
  { h.setCur h.cur.modulate with idxInTick := h.nTick_pos }

theorem Inv.sampleStep (h : Inv s) (hstep : sampleStep s = .next t) : Inv t := by
  obtain ⟨hidx, v, rfl⟩ := sampleStep_cases hstep
  have hfilled := (h.setCur (h.cur.sampled s.masterVol)).writeBuf s.chan v hidx
  dsimp only
  split
  · exact { hfilled with }
  · exact hfilled.nextSample

theorem Inv.parseStep (h : Inv s) (hstep : parseStep s = .next t) : Inv t := by
  obtain ⟨-, hexec⟩ := parseStep_cases hstep
  obtain ⟨c, hc, hcommand | hnote⟩ := exec_keeps_channelInv h.cur
    (fun hne => h.cur.advance (tokenSize_inText h.cur.posInText hne))
  · obtain rfl : s.setCur c = t := Host.Outcome.next.inj (hcommand.symm.trans hexec)
    exact h.setCur hc
  · obtain rfl : (s.setCur c).nextSample = t := Host.Outcome.next.inj (hnote.symm.trans hexec)
    exact (h.setCur hc).nextSample

theorem Inv.mixStep (h : Inv s) (hstep : mixStep s = .next t) : Inv t := by
  obtain ⟨-, ⟨-, rfl⟩ | ⟨status, later, -, ⟨-, rfl⟩ | ⟨-, rfl⟩⟩⟩ := mixStep_cases hstep
  · exact h
  · exact { h with }
  · exact Inv.nextFrame { h with }

end

/-- Settles O54: each of the five kinds of step keeps the invariant. The parser's step is the one with content:
a token other than the end of the string holds no 0x00, so it ends inside the text. -/
theorem stepKeepsTheInvariant : Obligations.StepKeepsTheInvariant := by
  intro s t h hstep
  rcases step_cases hstep with ⟨-, hs⟩ | ⟨-, rfl⟩ | ⟨-, hs⟩ | ⟨-, hs⟩ | ⟨-, hs⟩
  · exact h.hostStep hs
  · exact h.prologueStep
  · exact h.sampleStep hs
  · exact h.parseStep hs
  · exact h.mixStep hs

/-- The spec's default configuration is legal (93_implementation_defined.md U11, U12). -/
theorem configLegal_default : configLegal defaultConfig = true := by decide +kernel

/-- Settles O53: the default configuration is legal, and reset meets the invariant in every legal one. -/
theorem resetHasTheInvariant : Obligations.ResetHasTheInvariant := inv_resetOf configLegal_default

end Sys2Proof.Machine
end

section
/-! PROOF. What a step inside a tick leaves alone: the other channels, and outside the mix the sink
(10_state.md R20, 44_mixer_driver.md R207). -/

namespace Sys2Proof.Machine

/-- The later of two writes to the same channel's part stands. -/
theorem set_set_same {α : Type} (q : PerChannel α) (ch : ChannelId) (a b : α) : (q.set ch a).set ch b = q.set ch b := by
  cases ch <;> rfl

/-- From `s` to `t` only the registers and the frame buffer of the channel being processed may have changed,
beside the engine's place. -/
structure OwnChannelOnly (s t : State) : Prop where
  channels : ∃ c, t.channels = s.channels.set s.chan c
  buf : ∃ b, t.buf = s.buf.set s.chan b
  sent : t.sent = s.sent
  sinkStatus : t.sinkStatus = s.sinkStatus

section
variable {s t : State}

theorem ownChannelOnly_setCur (s : State) (c : Channel) : OwnChannelOnly s (s.setCur c) :=
  ⟨⟨c, rfl⟩, ⟨_, (set_get_same s.buf s.chan).symm⟩, rfl, rfl⟩

theorem OwnChannelOnly.writeBuf (h : OwnChannelOnly s t) (i : Nat) (v : Half) :
    OwnChannelOnly s (t.writeBuf s.chan i v) := by
  obtain ⟨b, hb⟩ := h.buf
  refine { h with buf := ⟨b.write i v, ?_⟩ }
  rw [writeBuf_buf, hb, get_set_same, set_set_same]

theorem OwnChannelOnly.nextSample (h : OwnChannelOnly s t) : OwnChannelOnly s t.nextSample :=
  ⟨by simpa using h.channels, by simpa using h.buf, by simpa using h.sent, by simpa using h.sinkStatus⟩

/-- The prologue, a sample step and a token of the parser stay inside the channel being processed. -/
theorem step_ownChannelOnly (hidle : s.phase ≠ .idle) (hmix : s.phase ≠ .mix) (h : step s = .next t) :
    OwnChannelOnly s t := by
  rcases step_cases h with ⟨hp, -⟩ | ⟨-, rfl⟩ | ⟨-, hs⟩ | ⟨-, hs⟩ | ⟨hp, -⟩
  · exact absurd hp hidle
  · exact { ownChannelOnly_setCur s (modulate s.cur) with }
  · obtain ⟨-, v, rfl⟩ := sampleStep_cases hs
    have hfilled := (ownChannelOnly_setCur s (sampled s.cfg s.masterVol s.cur)).writeBuf s.idx v
    dsimp only
    split
    · exact { hfilled with }
    · exact hfilled.nextSample
  · obtain ⟨-, hexec⟩ := parseStep_cases hs
    obtain ⟨c, hcommand | hnote⟩ := exec_cases (decode s.textAhead).1 s
    · obtain rfl : s.setCur c = t := Host.Outcome.next.inj (hcommand.symm.trans hexec)
      exact ownChannelOnly_setCur s c
    · obtain rfl : (s.setCur c).nextSample = t := Host.Outcome.next.inj (hnote.symm.trans hexec)
      exact (ownChannelOnly_setCur s c).nextSample
  · exact absurd hp hmix

/-- A query of the sink reads the frame buffers and writes no channel. -/
theorem mixStep_keeps_channels (h : mixStep s = .next t) : t.channels = s.channels ∧ t.buf = s.buf := by
  obtain ⟨-, ⟨-, rfl⟩ | ⟨status, later, -, ⟨-, rfl⟩ | ⟨-, rfl⟩⟩⟩ := mixStep_cases h
  · exact ⟨rfl, rfl⟩
  · exact ⟨rfl, rfl⟩
  · simp

theorem OwnChannelOnly.channels_other (h : OwnChannelOnly s t) {ch : ChannelId} (hch : ch ≠ s.chan) :
    t.channels.get ch = s.channels.get ch := by
  obtain ⟨c, hc⟩ := h.channels
  rw [hc, get_set_other _ _ hch]

theorem OwnChannelOnly.readBuf_other (h : OwnChannelOnly s t) {ch : ChannelId} (hch : ch ≠ s.chan) (a : Nat) :
    t.readBuf ch a = s.readBuf ch a := by
  obtain ⟨b, hb⟩ := h.buf
  rw [State.readBuf, hb, get_set_other _ _ hch, State.readBuf]

end

/-- Settles O60: outside the mix a step stays inside its own channel, and the mix writes no channel at all. -/
theorem otherChannelsAreUntouched : Obligations.OtherChannelsAreUntouched := by
  intro s t hidle hstep
  refine ⟨fun hmix => ?_, fun hmix => ?_⟩
  · have hown := step_ownChannelOnly hidle hmix hstep
    exact ⟨hown.sent, hown.sinkStatus, fun ch hch => ⟨hown.channels_other hch, hown.readBuf_other hch⟩⟩
  · have hquery : mixStep s = .next t := by simpa only [step, hmix] using hstep
    obtain ⟨hchannels, hbuf⟩ := mixStep_keeps_channels hquery
    exact ⟨hchannels, fun ch a => by rw [State.readBuf, hbuf, State.readBuf]⟩

end Sys2Proof.Machine
end

section
/-! PROOF. The state after reset: the registers, the program memories, and the default ROM fills, each against
the spec's own rule for it (10_state.md R53, 20_memory.md R64 to R71). -/

namespace Sys2Proof.Machine

/-- The one-byte text `r`, and 0x00 after it (20_memory.md R61). -/
theorem readMml_reset (ch : ChannelId) (a : Nat) : State.reset.readMml ch a = if a = 0 then 0x72#8 else 0x00#8 := by
  have htext : State.reset.mml.get ch = [(0, 0x72#8)] := by cases ch <;> rfl
  rw [State.readMml, htext]
  simp only [Memory.read, eq_comm]

theorem defaultNotePeriod_eq_listed : defaultNotePeriod.map (·.toNat) = listedPeriods := by decide +kernel

/-- The square law of 20_memory.md R66, rounded. -/
theorem defaultVolCurve_eq_square :
    defaultVolCurve.map (·.toNat) = (List.range 16).map (fun v => (256 * v * v + 112) / 225) := by decide +kernel

theorem triangleTable_eq : (toHalves ((List.range wtSize).map triangleAt)).map (·.toInt) = (List.range 256).map triangleOf := by
  decide +kernel

theorem sineTable_eq :
    (toHalves (sineFirstHalf ++ sineFirstHalf.map (fun v => -v))).map (·.toInt) = listedSine ++ listedSine.map (fun v => -v) := by
  decide +kernel

theorem sawTable_eq :
    (toHalves ((List.range wtSize).map sawAt)).map (·.toInt) = (List.range 256).map (fun i => 256 * ((i : Int) - 128)) := by
  decide +kernel

/-- The noise table is a run of the shift register from its seed 0xACE1, the seed itself left out (20_memory.md R71). -/
theorem noiseTable_eq_iterate : toHalves noiseTable = List.iterate lfsrStep (lfsrStep 0xACE1#16) 256 := by decide +kernel

/-- Each entry of a run but the first is the step of the one before. -/
theorem getElem?_iterate_succ {α : Type} (f : α → α) (a : α) {n i : Nat} (h : i + 1 < n) :
    (List.iterate f a n)[i + 1]? = (List.iterate f a n)[i]?.map f := by
  rw [List.getElem?_iterate f a n (i + 1) h, List.getElem?_iterate f a n i (by omega), Option.map_some,
    Function.iterate_succ_apply']

/-- Settles O52: the registers and globals are the reset record's own values, and each ROM has its lemma above. -/
theorem resetStateValues : Obligations.ResetStateValues := by
  have hnoise : State.reset.cfg.wavetable.getD 3 [] = List.iterate lfsrStep (lfsrStep 0xACE1#16) 256 := noiseTable_eq_iterate
  refine ⟨fun ch => get_fill _ ch, rfl, rfl, rfl, readMml_reset, rfl, defaultNotePeriod_eq_listed, defaultVolCurve_eq_square,
    rfl, triangleTable_eq, sineTable_eq, sawTable_eq, ?_⟩
  rw [hnoise]
  exact ⟨List.length_iterate _ _ _, rfl, fun i hi => getElem?_iterate_succ _ _ (by omega)⟩

end Sys2Proof.Machine
end

section
/-! PROOF. The parser's window on a program memory: the bytes ahead are the channel's own, and a text is read
as non-zero bytes up to `len(mml)` and as 0x00 there (20_memory.md R62, R63). -/

namespace Sys2Proof.Machine

theorem Memory.fetch_of_lt (m : Memory) {i : Nat} (hi : i < mmlMax) : m.fetch i = m.read i := if_pos hi

theorem Memory.fetch_mmlMax (m : Memory) : m.fetch mmlMax = 0x00#8 := if_neg (lt_irrefl mmlMax)

@[simp] theorem Memory.length_bytesFrom (m : Memory) (i n : Nat) : (m.bytesFrom i n).length = n := by
  induction n generalizing i with
  | zero => rfl
  | succ n ih => rw [Memory.bytesFrom, List.length_cons, ih]

theorem Memory.getElem?_bytesFrom (m : Memory) (i : Nat) {n k : Nat} (hk : k < n) :
    (m.bytesFrom i n)[k]? = some (m.fetch (i + k)) := by
  induction n generalizing i k with
  | zero => exact absurd hk (Nat.not_lt_zero k)
  | succ n ih =>
    cases k with
    | zero => rfl
    | succ k =>
      rw [Memory.bytesFrom, List.getElem?_cons_succ, ih (i + 1) (Nat.lt_of_succ_lt_succ hk), Nat.add_right_comm, Nat.add_assoc]

theorem length_textAhead (s : State) : s.textAhead.length = mmlMax - s.cur.mmlPos.toNat :=
  Memory.length_bytesFrom _ _ _

theorem getElem?_textAhead (s : State) {k : Nat} (hk : k < mmlMax - s.cur.mmlPos.toNat) :
    s.textAhead[k]? = some (s.readMml s.chan (s.cur.mmlPos.toNat + k)) := by
  rw [State.textAhead, Memory.getElem?_bytesFrom _ _ hk, Memory.fetch_of_lt _ (by omega), State.readMml]

theorem fetch_ne_zero_of_lt_textLength {m : Memory} {i : Nat} (hi : i < m.textLength) : m.fetch i ≠ 0x00#8 := by
  rw [Memory.fetch_of_lt m (hi.trans_le (textLength_le m))]
  exact read_ne_of_lt_endFrom m 0 mmlMax i (Nat.zero_le i) hi

/-- Up to its end a text holds 0x00 at its end only (20_memory.md R62). -/
theorem fetch_eq_zero_iff {m : Memory} {i : Nat} (hi : i ≤ m.textLength) : m.fetch i = 0x00#8 ↔ i = m.textLength := by
  constructor
  · intro hzero
    exact hi.eq_of_not_lt fun hlt => fetch_ne_zero_of_lt_textLength hlt hzero
  · rintro rfl
    exact fetch_textLength m

/-- Settles O7: the window law byte by byte, and the law of a text's end. -/
theorem fetchReadsTheChannelsOwnMemory : Obligations.FetchReadsTheChannelsOwnMemory :=
  ⟨fun s => ⟨length_textAhead s, fun _ hk => getElem?_textAhead s hk⟩,
    fun _ _ hi => fetch_eq_zero_iff hi,
    fun m => ⟨textLength_le m, m.fetch_mmlMax⟩⟩

end Sys2Proof.Machine
end

section
/-! PROOF. Decoder and encoder are each other's inverse: what an encoded token reads back as, the row an opcode byte
selects, and the value of a run of digits (30_encoding.md R92 to R98). -/

namespace Sys2Proof

open Machine

/-! ### A suffix is read back from its encoding, by format (30_encoding.md R92) -/

theorem digitsOk_of_suffixOk {marks : Nat} {digits : List Nat} (h : suffixOk marks digits = true) : digitsOk digits = true := by
  simp only [suffixOk, Bool.and_eq_true] at h
  exact h.1

theorem decodeNum_encode {digits : List Nat} {rest : List Byte} (mk : List Nat → Instr)
    (hd : digitsOk digits = true) (h : HeadFree isDigitByte rest) :
    decodeNum mk (encodeDigits digits ++ rest) = (mk digits, rest) := by
  simp only [decodeNum, takeDigits_encode digits hd h]

theorem decodeRest_encode {digits : List Nat} {dot : Bool} {rest : List Byte} (mk : List Nat → Bool → Instr)
    (hd : digitsOk digits = true) (h : HeadFree (restTakes dot) rest) :
    decodeRest mk (encodeDigits digits ++ (encodeDot dot ++ rest)) = (mk digits dot, rest) := by
  simp only [decodeRest, takeDigits_encode digits hd (encodeDot_head dot h), takeDot_encode dot h]

/-- Past its accidental a note is read as a rest is. -/
theorem decodeNote_eq_decodeRest (mk : Accidental → List Nat → Bool → Instr) (text : List Byte) :
    decodeNote mk text = decodeRest (mk (takeAccidental text).1) (takeAccidental text).2 := rfl

theorem decodeNote_encode {acc : Accidental} {digits : List Nat} {dot : Bool} {rest : List Byte}
    (mk : Accidental → List Nat → Bool → Instr) (hd : digitsOk digits = true) (h : HeadFree (noteTakes acc digits dot) rest) :
    decodeNote mk (encodeAccidental acc ++ (encodeDigits digits ++ (encodeDot dot ++ rest))) = (mk acc digits dot, rest) := by
  rw [decodeNote_eq_decodeRest, takeAccidental_encode acc digits hd dot h]
  exact decodeRest_encode (mk acc) hd (headFree_rest_of_note h)

/-! ### A whole token is read back from its encoding

Each token's own part is `hdec`: what its opcode byte makes of the text after it. -/

theorem decode_encodeNum {first : Byte} {digits : List Nat} {rest : List Byte} {mk : List Nat → Instr}
    (hdec : ∀ text, decode (first :: text) = decodeNum mk text)
    (hwf : suffixOk 0 digits = true) (h : HeadFree isDigitByte rest) :
    decode (first :: encodeDigits digits ++ rest) = (mk digits, rest) := by
  rw [List.cons_append, hdec, decodeNum_encode mk (digitsOk_of_suffixOk hwf) h]

theorem decode_encodeRest {first : Byte} {digits : List Nat} {dot : Bool} {rest : List Byte} {mk : List Nat → Bool → Instr}
    (hdec : ∀ text, decode (first :: text) = decodeRest mk text)
    (hwf : suffixOk (marksOf .natural dot) digits = true) (h : HeadFree (restTakes dot) rest) :
    decode (first :: (encodeDigits digits ++ encodeDot dot) ++ rest) = (mk digits dot, rest) := by
  rw [List.cons_append, List.append_assoc, hdec, decodeRest_encode mk (digitsOk_of_suffixOk hwf) h]

theorem decode_encodeNote {upper : Byte} {k : LetterCase} {acc : Accidental} {digits : List Nat} {dot : Bool}
    {rest : List Byte} {mk : Accidental → List Nat → Bool → Instr}
    (hdec : ∀ text, decode (letterByte upper k :: text) = decodeNote mk text)
    (hwf : suffixOk (marksOf acc dot) digits = true) (h : HeadFree (noteTakes acc digits dot) rest) :
    decode (encodeNote upper k acc digits dot ++ rest) = (mk acc digits dot, rest) := by
  rw [encodeNote, List.cons_append, List.append_assoc, List.append_assoc, hdec,
    decodeNote_encode mk (digitsOk_of_suffixOk hwf) h]

/-- The row of the token read is the row its opcode byte selects (30_encoding.md R97). -/
theorem opcode_decode (byte : Byte) (rest : List Byte) : (decode (byte :: rest)).1.opcode = classify byte := by
  simp only [decode]
  cases classify byte <;> rfl

theorem decode_skipByte {byte : Byte} (h : isSkipByte byte = true) (rest : List Byte) :
    decode (byte :: rest) = (.skip byte, rest) := by
  simp only [decode, (classify_skip_iff byte).2 h]

/-- Settles O3, by the format of the token; a letter is read back in either case. -/
theorem decodeOfEncode : Obligations.DecodeOfEncode := by
  intro i rest hwf hfree
  cases i with
  | c k | d k | e k | f k | g k | a k | b k => exact decode_encodeNote (fun _ => by cases k <;> rfl) hwf hfree
  | r k => exact decode_encodeRest (fun _ => by cases k <;> rfl) hwf hfree
  | tone => exact decode_encodeNum (fun _ => rfl) hwf hfree
  | t k | l k | o k | v k | x k | q k | s k | m k | p k | h k =>
    exact decode_encodeNum (fun _ => by cases k <;> rfl) hwf hfree
  | tie | octUp | octDown | eos => rfl
  | skip byte => exact decode_skipByte hwf rest

/-- Settles O2: the class is what the opcode map leaves over, and its 215 bytes are counted. -/
theorem skipTokensAreTheOtherBytes : Obligations.SkipTokensAreTheOtherBytes := by
  refine ⟨fun byte rest h => decode_skipByte h rest, fun byte rest h hskip => ?_, by decide +kernel, fun _ _ => rfl⟩
  rw [opcode_decode, classify_skip_iff, h] at hskip
  exact Bool.false_ne_true hskip

/-- Settles O4: the decoder's reading law, for a text with a first byte. -/
theorem encodeOfDecode : Obligations.EncodeOfDecode := by
  intro text hne
  cases text with
  | nil => exact absurd rfl hne
  | cons byte rest => exact ⟨(decode_reads byte rest).whole, (decode_reads byte rest).wellFormed⟩

/-! ### The value of a run of digits (30_encoding.md R95) -/

/-- A digit read after an earlier saturation gives what saturating only afterwards gives. -/
theorem numStep_min (n digit : Nat) : numStep (min n 65535) digit = min (n * 10 + digit) 65535 := by
  simp only [numStep]
  omega

/-- Saturating at each digit is saturating once at the end. -/
theorem foldl_numStep_min (digits : List Nat) (n : Nat) :
    digits.foldl numStep (min n 65535) = min (digits.foldl (fun n digit => n * 10 + digit) n) 65535 := by
  induction digits generalizing n with
  | nil => rfl
  | cons digit digits ih => simp only [List.foldl_cons, numStep_min, ih]

/-- A number that is present is the operand `n` of 30_encoding.md R95. -/
theorem parseNum_cons (digit : Nat) (digits : List Nat) : parseNum (digit :: digits) = some (numberOf (digit :: digits)) :=
  congrArg some (foldl_numStep_min (digit :: digits) 0)

/-- Settles O8: a run is absent, or its saturations collect into one. -/
theorem parseNumIsTheSaturatedDecimalValue : Obligations.ParseNumIsTheSaturatedDecimalValue := by
  intro digits
  cases digits with
  | nil => rfl
  | cons digit digits => rw [parseNum_cons, if_neg (List.cons_ne_nil _ _), numberOf]

/-- Settles O1: each written word is decoded by evaluation. -/
theorem decodesWrittenWords : Obligations.DecodesWrittenWords :=
  ⟨rfl, rfl, rfl, rfl, rfl, rfl, rfl, rfl, rfl, rfl, rfl, rfl, rfl⟩

end Sys2Proof
end

section
/-! PROOF. The notes, the rest and the tie mark: the duration they play, the period they store, and the whole next
state of each (40_mml_notes.md R110 to R122). -/

namespace Sys2Proof.Machine

/-! ### The duration (30_encoding.md R96, 40_mml_notes.md R110) -/

section
variable (c : Channel) (digits : List Nat) (dot : Bool)

/-- An explicit length goes through the note-length function; an absent one counts as the length 0. -/
theorem plainLength_eq :
    plainLength c digits = if numberOf digits = 0 then c.defLen.toNat else dur c.tempo.toNat (numberOf digits) := by
  cases digits with
  | nil => rfl
  | cons digit digits => simp only [plainLength, parseNum_cons]

theorem toNat_lengthOperand : (lengthOperand c digits dot).toNat = noteDuration c digits dot := by
  rw [lengthOperand_toNat, plainLength_eq]
  rfl

theorem lengthOperand_eq : lengthOperand c digits dot = BitVec.ofNat 32 (noteDuration c digits dot) := by
  rw [← toNat_lengthOperand, BitVec.ofNat_toNat, BitVec.setWidth_eq]

end

/-- Settles O9: the bound is that of the numerator, the explicit length is the undotted operand. -/
theorem noteLengthLaw : Obligations.NoteLengthLaw := by
  refine ⟨fun T L _ _ => ⟨rfl, dur_le T L, (dur_le T L).trans_lt (by decide)⟩, rfl, rfl, rfl, fun c digits hnum => ?_⟩
  rw [lengthOperand_toNat, if_neg Bool.false_ne_true, plainLength_eq, if_neg hnum]

/-! ### The length in bytes and the period (30_encoding.md R93, R94, 40_mml_notes.md R112) -/

theorem noteSize_eq (acc : Accidental) (digits : List Nat) (dot : Bool) :
    noteSize acc digits dot = 1 + (if acc = .natural then 0 else 1) + digits.length + (if dot then 1 else 0) := by
  cases acc <;> rfl

theorem noteIndex_eq (scale : Nat) (acc : Accidental) (octave : BitVec 3) :
    noteIndex scale acc octave = (scale : Int) + semitones acc + 12 * (octave.toNat : Int) := by
  rw [noteIndex, mul_comm, show accidentalValue acc = semitones acc by cases acc <;> rfl]

theorem notePeriodOf_eq_periodAt (cfg : Config) (idx : Int) : notePeriodOf cfg idx = periodAt cfg idx := by
  have hrange : (0 ≤ idx ∧ idx < 84) ↔ (0 ≤ idx ∧ idx ≤ 83) := by omega
  simp only [notePeriodOf, hrange]
  rfl

theorem periodAt_of_outOfRange (cfg : Config) {idx : Int} (h : idx < 0 ∨ 83 < idx) : periodAt cfg idx = 0#16 :=
  if_neg (by omega)

/-- What a note adds to `startOrTie`: the period of its index. -/
theorem note_eq (cfg : Config) (c : Channel) (scale : Nat) (acc : Accidental) (digits : List Nat) (dot : Bool) :
    c.note cfg scale acc digits dot = Channel.startOrTie
      { c.advance (noteSize acc digits dot) with
          frValue := periodAt cfg ((scale : Int) + semitones acc + 12 * (c.octave.toNat : Int)) }
      (lengthOperand c digits dot) := by
  rw [Channel.note, notePeriodOf_eq_periodAt, noteIndex_eq]

/-! ### The registers a note and a rest share (40_mml_notes.md R114) -/

section
variable {c : Channel} (size : Nat) (period : Half) (digits : List Nat) (dot : Bool)

theorem startOrTie_fresh_eq (h : c.tie = false) :
    Channel.startOrTie { c.advance size with frValue := period } (lengthOperand c digits dot) =
      { c with
          mmlPos := c.mmlPos + BitVec.ofNat 10 size
          frValue := period
          len := BitVec.ofNat 32 (noteDuration c digits dot)
          slicePos := 0#32
          framePos := 0#32
          frCounter := 0#32
          frTune := 0#32
          intVol := c.localVol } := by
  rw [startOrTie_of_fresh (c := { c.advance size with frValue := period }) h, lengthOperand_eq]
  rfl

theorem startOrTie_tied_eq (h : c.tie = true) :
    Channel.startOrTie { c.advance size with frValue := period } (lengthOperand c digits dot) =
      { c with
          mmlPos := c.mmlPos + BitVec.ofNat 10 size
          frValue := period
          len := BitVec.ofNat 32 (min (c.len.toNat + noteDuration c digits dot) 4294967295)
          tie := false } := by
  rw [startOrTie_of_tie (c := { c.advance size with frValue := period }) h, Channel.bindTie, toNat_lengthOperand]
  rfl

end

/-! ### The tokens -/

/-- The end of the parser run, with the registers as the token left them (44_mixer_driver.md R203). -/
theorem setCur_nextSample_eq (s : State) (c : Channel) :
    (s.setCur c).nextSample = { s with
      channels := s.channels.set s.chan c
      phase := (placeAfterSample s.cfg.nTick s.chan s.idx).1
      chan := (placeAfterSample s.cfg.nTick s.chan s.idx).2.1
      idx := (placeAfterSample s.cfg.nTick s.chan s.idx).2.2 } :=
  nextSample_eq_place (s.setCur c)

theorem exec_rest (k : LetterCase) (digits : List Nat) (dot : Bool) (s : State) :
    exec (.r k digits dot) s = .next (s.setCur (s.cur.rest digits dot)).nextSample := rfl

/-- The opcode byte of a note letter, in either case, selects its note (30_encoding.md R91, R97). -/
theorem decode_noteLetter {e : Byte × Byte × (LetterCase → Accidental → List Nat → Bool → Instr)} (he : e ∈ noteLetters)
    (rest : List Byte) :
    decode (e.1 :: rest) = decodeNote (e.2.2 .upper) rest ∧ decode (e.2.1 :: rest) = decodeNote (e.2.2 .lower) rest := by
  simp only [noteLetters, List.mem_cons, List.not_mem_nil, or_false] at he
  obtain rfl | rfl | rfl | rfl | rfl | rfl | rfl := he <;> exact ⟨rfl, rfl⟩

section
variable {e : Nat × (LetterCase → Accidental → List Nat → Bool → Instr)}

/-- Only `C` stands below scale position 2 (40_mml_notes.md R111). -/
theorem scale_eq_zero_or (he : e ∈ noteTokens) : e.1 = 0 ∨ 2 ≤ e.1 := by
  simp only [noteTokens, List.mem_cons, List.not_mem_nil, or_false] at he
  obtain rfl | rfl | rfl | rfl | rfl | rfl | rfl := he <;> decide

/-- The seven letters have one meaning, at their scale positions. -/
theorem exec_noteToken (he : e ∈ noteTokens) (k : LetterCase) (acc : Accidental) (digits : List Nat)
    (dot : Bool) (s : State) : exec (e.2 k acc digits dot) s = .next (noteToken e.1 acc digits dot s) := by
  simp only [noteTokens, List.mem_cons, List.not_mem_nil, or_false] at he
  obtain rfl | rfl | rfl | rfl | rfl | rfl | rfl := he <;> rfl

/-- A note completes, and with or without a tie it stores the period of its index (40_mml_notes.md R112). -/
theorem exec_noteToken_frValue (he : e ∈ noteTokens) (k : LetterCase) (acc : Accidental)
    (digits : List Nat) (dot : Bool) (s : State) :
    ∃ t, exec (e.2 k acc digits dot) s = .next t ∧ (t.channels.get s.chan).frValue =
      periodAt s.cfg ((e.1 : Int) + semitones acc + 12 * ((s.channels.get s.chan).octave.toNat : Int)) := by
  refine ⟨_, exec_noteToken he k acc digits dot s, ?_⟩
  obtain ⟨-, -, hperiod, -⟩ := startOrTie_frame
    { s.cur.advance (noteSize acc digits dot) with
        frValue := periodAt s.cfg ((e.1 : Int) + semitones acc + 12 * (s.cur.octave.toNat : Int)) }
    (lengthOperand s.cur digits dot)
  rw [noteToken, nextSample_channels, setCur_channels, get_set_same, note_eq, hperiod]
  rfl

/-- In octave 7 the index is past the table, but for the lowest one, of C flat (40_mml_notes.md R112). -/
theorem periodAt_octave7 (cfg : Config) (he : e ∈ noteTokens) (acc : Accidental) :
    periodAt cfg ((e.1 : Int) + semitones acc + 12 * ((7#3).toNat : Int)) =
      if e.1 = 0 ∧ acc = .flat then cfg.notePeriod.getD 83 0#16 else 0#16 := by
  have hscale := scale_eq_zero_or he
  have hoctave : (7#3).toNat = 7 := rfl
  split
  case isTrue hflat =>
    obtain ⟨hzero, hacc⟩ := hflat
    rw [hzero, hacc]
    rfl
  case isFalse hflat =>
    refine periodAt_of_outOfRange cfg (Or.inr ?_)
    cases acc with
    | natural | sharp | plus => simp only [semitones]; omega
    | flat =>
      have hpos : e.1 ≠ 0 := fun hzero => hflat ⟨hzero, rfl⟩
      simp only [semitones]; omega

end

/-- Settles O10: the fresh half of `StartOrTie` at the note's period, and the place after the sample. -/
theorem noteStartsFresh : Obligations.NoteStartsFresh := by
  refine ⟨fun e he rest => decode_noteLetter he rest, fun e he k acc digits dot s htie => ?_⟩
  rw [exec_noteToken he, noteToken, setCur_nextSample_eq, note_eq, startOrTie_fresh_eq (c := s.cur) _ _ _ _ htie,
    ← noteSize_eq]
  rfl

/-- Settles O11: the tied half of `StartOrTie` at the note's period, and the place after the sample. -/
theorem noteBindsTie : Obligations.NoteBindsTie := by
  intro e he k acc digits dot s htie
  rw [exec_noteToken he, noteToken, setCur_nextSample_eq, note_eq, startOrTie_tied_eq (c := s.cur) _ _ _ _ htie,
    ← noteSize_eq]
  rfl

/-- Settles O12: either half of `StartOrTie` at the sentinel, and the place after the sample. -/
theorem restIsSilentNote : Obligations.RestIsSilentNote := by
  refine ⟨fun rest => ⟨rfl, rfl⟩, fun k digits dot s => ?_⟩
  rw [exec_rest, setCur_nextSample_eq, Channel.rest]
  cases htie : (s.channels.get s.chan).tie with
  | true =>
    rw [if_pos rfl, startOrTie_tied_eq (c := s.cur) _ _ _ _ htie]
    rfl
  | false =>
    rw [if_neg Bool.false_ne_true, startOrTie_fresh_eq (c := s.cur) _ _ _ _ htie]
    rfl

/-- Settles O13: the index of each named note against the range of the table. -/
theorem outOfRangeNotesAreRests : Obligations.OutOfRangeNotesAreRests := by
  have hc : (0, Instr.c) ∈ noteTokens := List.mem_cons_self
  have hb : (11, Instr.b) ∈ noteTokens := List.mem_of_getLast? rfl
  refine ⟨fun e he k acc digits dot s hoct => ?_, fun k digits dot s hoct => ?_, fun k acc digits dot s hoct hacc => ?_⟩
  · obtain ⟨t, hexec, hperiod⟩ := exec_noteToken_frValue he k acc digits dot s
    exact ⟨t, hexec, by rw [hperiod, hoct, periodAt_octave7 s.cfg he acc]⟩
  · obtain ⟨t, hexec, hperiod⟩ := exec_noteToken_frValue hc k .flat digits dot s
    exact ⟨t, hexec, by rw [hperiod, hoct]; exact periodAt_of_outOfRange s.cfg (Or.inl (by decide))⟩
  · obtain ⟨t, hexec, hperiod⟩ := exec_noteToken_frValue hb k acc digits dot s
    refine ⟨t, hexec, ?_⟩
    rw [hperiod, hoct]
    obtain rfl | rfl := hacc <;> exact periodAt_of_outOfRange s.cfg (Or.inr (by decide))

/-- Settles O14: both by evaluation; the tie mark leaves the engine's place. -/
theorem tieMarkSetsTie : Obligations.TieMarkSetsTie := ⟨fun _ => rfl, fun _ => rfl⟩

end Sys2Proof.Machine
end

section
/-! PROOF. One step inside `Parse`: the token it executes, whether that token ends the parser run, and where it
leaves `mml_pos` (41_mml_commands.md R130 to R132). -/

namespace Sys2Proof.Machine

/-! ### What a token does to the run and to `mml_pos` -/

/-- Whether a token ends the parser run: a note or a rest (41_mml_commands.md R130). -/
def endsParse : Instr → Bool
  | .c _ _ _ _ | .d _ _ _ _ | .e _ _ _ _ | .f _ _ _ _ | .g _ _ _ _ | .a _ _ _ _ | .b _ _ _ _ | .r _ _ _ => true
  | _ => false

theorem endsParse_decode (byte : Byte) (rest : List Byte) : endsParse (decode (byte :: rest)).1 = isPlayableByte byte := by
  simp only [decode, isPlayableByte]
  cases classify byte <;> rfl

theorem startOrTie_mmlPos (c : Channel) (duration : Word) : (c.startOrTie duration).mmlPos = c.mmlPos := by
  obtain ⟨-, hpos, -⟩ := startOrTie_frame c duration
  exact hpos

/-- `mml_pos` after a token: past it, or at 0 after the end of the string (41_mml_commands.md R131, R132). -/
def posAfter (i : Instr) (pos : BitVec 10) : BitVec 10 := if i = .eos then 0#10 else pos + BitVec.ofNat 10 (tokenSize i)

theorem posAfter_eos (pos : BitVec 10) : posAfter .eos pos = 0#10 := rfl

theorem posAfter_of_ne {i : Instr} (h : i ≠ .eos) (pos : BitVec 10) : posAfter i pos = pos + BitVec.ofNat 10 (tokenSize i) :=
  if_neg h

/-- Every token completes with `mml_pos` moved, and only a note or a rest moves the engine on. -/
theorem exec_moves (i : Instr) (s : State) :
    ∃ c, c.mmlPos = posAfter i s.cur.mmlPos ∧
      exec i s = .next (if endsParse i then (s.setCur c).nextSample else s.setCur c) := by
  cases i with
  | c | d | e | f | g | a | b | r => exact ⟨_, startOrTie_mmlPos _ _, rfl⟩
  | _ => exact ⟨_, rfl, rfl⟩

/-- Settles O5: the registers a token writes are those of its own channel, in either place of the engine. -/
theorem everyTokenCompletesAndAdvances : Obligations.EveryTokenCompletesAndAdvances := by
  intro i s
  obtain ⟨c, hpos, hexec⟩ := exec_moves i s
  refine ⟨_, hexec, ?_⟩
  have hcur : ∀ ends : Bool,
      (if ends then (s.setCur c).nextSample else s.setCur c).channels = s.channels.set s.chan c := by
    intro ends
    cases ends
    · rfl
    · exact nextSample_channels _
  rw [hcur, get_set_same, hpos, length_encode]
  rfl

/-! ### The token at `mml_pos` -/

/-- Only 0x00 selects the end-of-string row (30_encoding.md R97). -/
theorem classify_eos_iff (byte : Byte) : classify byte = .eos ↔ byte = 0x00#8 := by
  constructor
  · intro h
    have hspell := respell_classify byte
    rw [h] at hspell
    exact hspell.symm
  · rintro rfl
    rfl

theorem decode_eq_eos_iff (byte : Byte) (rest : List Byte) : (decode (byte :: rest)).1 = .eos ↔ byte = 0x00#8 := by
  constructor
  · intro h
    rw [← classify_eos_iff, ← opcode_decode byte rest, h]
    rfl
  · rintro rfl
    rw [decode_zero]

theorem zero_not_playable : isPlayableByte 0x00#8 = false := rfl

section
variable {s : State}

/-- At index 512 nothing is ahead; before it the byte fetched comes first (20_memory.md R63). -/
theorem textAhead_cases (hpos : s.cur.mmlPos.toNat ≤ mmlMax) :
    (s.textAhead = [] ∧ s.cur.mmlPos.toNat = mmlMax)
    ∨ ∃ rest, s.textAhead = (s.mml.get s.chan).fetch s.cur.mmlPos.toNat :: rest := by
  unfold State.textAhead
  cases hleft : mmlMax - s.cur.mmlPos.toNat with
  | zero => exact Or.inl ⟨rfl, by omega⟩
  | succ n => exact Or.inr ⟨_, rfl⟩

/-- The token ends the run exactly if the byte fetched is the opcode byte of a note or a rest. -/
theorem endsParse_token (hpos : s.cur.mmlPos.toNat ≤ mmlMax) :
    endsParse (decode s.textAhead).1 = isPlayableByte ((s.mml.get s.chan).fetch s.cur.mmlPos.toNat) := by
  obtain ⟨hnil, hend⟩ | ⟨rest, hcons⟩ := textAhead_cases hpos
  · rw [hnil, hend, Memory.fetch_mmlMax]
    rfl
  · rw [hcons, endsParse_decode]

/-- Inside the text the parser meets the end of the string at `len(mml)` and nowhere else. -/
theorem token_eq_eos_iff (hpos : s.cur.mmlPos.toNat ≤ (s.mml.get s.chan).textLength) :
    (decode s.textAhead).1 = .eos ↔ s.cur.mmlPos.toNat = (s.mml.get s.chan).textLength := by
  rw [← fetch_eq_zero_iff hpos]
  obtain ⟨hnil, hend⟩ | ⟨rest, hcons⟩ := textAhead_cases (hpos.trans (textLength_le _))
  · rw [hnil, hend, Memory.fetch_mmlMax]
    exact iff_of_true rfl rfl
  · rw [hcons, decode_eq_eos_iff]

theorem step_parse (hphase : s.phase = .parse) (hpos : s.cur.mmlPos.toNat ≤ mmlMax) :
    step s = exec (decode s.textAhead).1 s := by
  simp only [step, hphase, parseStep, State.fetchToken, if_pos hpos]

end

/-- Settles O6: the parser's step at an index that `Fetch` is defined for. -/
theorem stepRunsTheDecodedToken : Obligations.StepRunsTheDecodedToken := by
  intro s i rest hphase hpos hdec
  rw [step_parse hphase hpos, hdec]

/-- Settles O26: the parser meets the end of the string at `len(mml)`, by the law of a text's end. -/
theorem eosWrapsToIndexZero : Obligations.EosWrapsToIndexZero := by
  refine ⟨fun _ => rfl, decode_nil, decode_zero, fun s hphase hend => ?_⟩
  have hpos : s.cur.mmlPos.toNat ≤ (s.mml.get s.chan).textLength := hend.le
  rw [step_parse hphase (hpos.trans (textLength_le _)), (token_eq_eos_iff hpos).2 hend]

end Sys2Proof.Machine
end

section
/-! PROOF. A whole parser run: without a note or a rest it never ends, and with one it reaches it, because no token
reads the opcode byte of a note or a rest as part of its suffix (41_mml_commands.md R148, 70_reset_and_hazards.md
R276, R283). -/

namespace Sys2Proof.Machine

/-! ### A suffix holds no opcode byte of a note or a rest (30_encoding.md R92) -/

theorem not_playable_of_digit {byte : Byte} (h : isDigitByte byte = true) : isPlayableByte byte = false := by
  have hall := forall_byte (fun b => !isDigitByte b || !isPlayableByte b) (by decide +kernel) byte
  simpa [h] using hall

theorem encodeDigits_not_playable {digits : List Nat} (hd : digitsOk digits = true) :
    ∀ byte ∈ encodeDigits digits, isPlayableByte byte = false := by
  intro byte hmem
  obtain ⟨n, hn, rfl⟩ := List.mem_map.1 hmem
  exact not_playable_of_digit (isDigitByte_encode (of_decide_eq_true (List.all_eq_true.1 hd n hn)))

theorem encodeDot_not_playable (dot : Bool) : ∀ byte ∈ encodeDot dot, isPlayableByte byte = false := by
  cases dot <;> decide

theorem encodeAccidental_not_playable (acc : Accidental) : ∀ byte ∈ encodeAccidental acc, isPlayableByte byte = false := by
  cases acc <;> decide

/-- After its opcode byte a token holds digits, an accidental and a dot only. -/
theorem suffix_not_playable {i : Instr} (hwf : i.wellFormed = true) :
    ∀ byte ∈ (encode i).tail, isPlayableByte byte = false := by
  cases i with
  | c | d | e | f | g | a | b =>
    exact List.forall_mem_append.2 ⟨encodeAccidental_not_playable _,
      List.forall_mem_append.2 ⟨encodeDigits_not_playable (digitsOk_of_suffixOk hwf), encodeDot_not_playable _⟩⟩
  | r =>
    exact List.forall_mem_append.2 ⟨encodeDigits_not_playable (digitsOk_of_suffixOk hwf), encodeDot_not_playable _⟩
  | t | l | o | v | x | q | s | m | tone | p | h => exact encodeDigits_not_playable (digitsOk_of_suffixOk hwf)
  | tie | octUp | octDown | eos | skip => exact List.forall_mem_nil _

theorem tokenSize_pos (i : Instr) : 0 < tokenSize i := by
  cases i <;> simp only [tokenSize, noteSize, restSize, numSize] <;> omega

section
variable {s : State}

/-- No token steps over the opcode byte of a note or a rest: it ends before one that stands further on. -/
theorem token_ends_before_playable {target : Nat} (hpos : s.cur.mmlPos.toNat < target) (htarget : target < mmlMax)
    (hplay : isPlayableByte ((s.mml.get s.chan).fetch target) = true) (hne : (decode s.textAhead).1 ≠ .eos) :
    s.cur.mmlPos.toNat + tokenSize (decode s.textAhead).1 ≤ target := by
  by_contra hover
  obtain ⟨hprefix, -⟩ := encode_decode_prefix hne
  have hwf : (decode s.textAhead).1.wellFormed = true := by
    refine (encodeOfDecode s.textAhead (fun hnil => hne (by rw [hnil, decode_nil]))).2 ?_
    rw [length_textAhead]
    exact Nat.sub_le _ _
  obtain ⟨k, rfl⟩ := Nat.exists_eq_add_of_lt hpos
  have hk : k + 1 < (encode (decode s.textAhead).1).length := by rw [length_encode]; omega
  have hbyte : (encode (decode s.textAhead).1)[k + 1] = (s.mml.get s.chan).fetch (s.cur.mmlPos.toNat + k + 1) := by
    have hread := List.prefix_iff_getElem?.1 hprefix (k + 1) hk
    exact Option.some.inj (hread.symm.trans (Memory.getElem?_bytesFrom _ _ (by omega)))
  have hmem : (encode (decode s.textAhead).1)[k + 1] ∈ (encode (decode s.textAhead).1).tail := by
    rw [← List.getElem_tail (i := k) (by rw [List.length_tail]; omega)]
    exact List.getElem_mem _
  have hnot := suffix_not_playable hwf _ hmem
  rw [hbyte, hplay] at hnot
  exact Bool.noConfusion hnot

/-! ### One token of a run, under the invariant -/

theorem Inv.pos_le (h : Inv s) : s.cur.mmlPos.toNat ≤ mmlMax := h.cur.posInText.trans (textLength_le _)

/-- A note or a rest ends the run, and no frame is sent. -/
theorem step_of_playable (h : Inv s) (hphase : s.phase = .parse)
    (hplay : isPlayableByte ((s.mml.get s.chan).fetch s.cur.mmlPos.toNat) = true) :
    ∃ t, step s = .next t ∧ t.phase ≠ .parse ∧ t.sent = s.sent := by
  obtain ⟨c, -, hexec⟩ := exec_moves (decode s.textAhead).1 s
  rw [endsParse_token h.pos_le, hplay, if_pos rfl] at hexec
  refine ⟨_, (step_parse hphase h.pos_le).trans hexec, ?_, nextSample_sent _⟩
  rw [nextSample_eq_place]
  exact placeAfterSample_ne_parse _ _ _

/-- Any other token goes on in the same run with `mml_pos` moved. -/
theorem step_of_not_playable (h : Inv s) (hphase : s.phase = .parse)
    (hplay : isPlayableByte ((s.mml.get s.chan).fetch s.cur.mmlPos.toNat) = false) :
    ∃ c, step s = .next (s.setCur c) ∧ Inv (s.setCur c) ∧ c.mmlPos = posAfter (decode s.textAhead).1 s.cur.mmlPos := by
  obtain ⟨c, hpos, hexec⟩ := exec_moves (decode s.textAhead).1 s
  rw [endsParse_token h.pos_le, hplay, if_neg Bool.false_ne_true] at hexec
  have hstep := (step_parse hphase h.pos_le).trans hexec
  exact ⟨c, hstep, stepKeepsTheInvariant s _ h hstep, hpos⟩

/-- A text without a note or a rest has none at `mml_pos`; its end is none. -/
theorem not_playable_at_pos (h : Inv s) (hnone : ¬ Playable (s.mml.get s.chan)) :
    isPlayableByte ((s.mml.get s.chan).fetch s.cur.mmlPos.toNat) = false := by
  rcases Nat.lt_or_eq_of_le h.cur.posInText with hlt | hend
  · refine Bool.eq_false_iff.2 fun hplay => hnone ⟨_, hlt, ?_⟩
    rwa [Memory.fetch_of_lt _ (hlt.trans_le (textLength_le _))] at hplay
  · rw [hend, fetch_textLength, zero_not_playable]

end

/-- Settles O56: each token leaves a state of the same kind, so the run has no last step. -/
theorem textWithoutNotesHangsTheParser : Obligations.TextWithoutNotesHangsTheParser := by
  intro s h hphase hnone n
  induction n generalizing s with
  | zero => exact ⟨s, rfl, hphase, rfl⟩
  | succ n ih =>
    obtain ⟨c, hstep, hinv, -⟩ := step_of_not_playable h hphase (not_playable_at_pos h hnone)
    obtain ⟨t, hrun, hparse, hsent⟩ := ih (s.setCur c) hinv hphase hnone
    exact ⟨t, (runSteps_succ n hstep).trans hrun, hparse, hsent⟩

/-! ### The way to the next note -/

/-- How many bytes a run from `pos` has still to pass up to and with the one at `target`, in a text of `len` bytes
and the end of the string: straight ahead, or past the end and from index 0 (41_mml_commands.md R131). -/
def wayTo (len target pos : Nat) : Nat :=
  if pos ≤ target then target - pos + 1 else len - pos + 1 + (target + 1)

theorem wayTo_ahead {len target pos : Nat} (h : pos ≤ target) : wayTo len target pos = target - pos + 1 := if_pos h

theorem wayTo_behind {len target pos : Nat} (h : target < pos) : wayTo len target pos = len - pos + 1 + (target + 1) :=
  if_neg (Nat.not_le.2 h)

/-- The longest way begins right after the note and passes the whole text and its end. -/
theorem wayTo_le {len target pos : Nat} (htarget : target < len) : wayTo len target pos ≤ len + 1 := by
  unfold wayTo
  split <;> omega

section
variable {s : State}

/-- Each token other than a note or a rest shortens the way: it stops before the note, or goes on towards the
end of the text, or starts again at index 0. -/
theorem wayTo_posAfter_lt {target : Nat} (h : Inv s) (htarget : target < (s.mml.get s.chan).textLength)
    (hplay : isPlayableByte ((s.mml.get s.chan).fetch target) = true) (hother : s.cur.mmlPos.toNat ≠ target) :
    wayTo (s.mml.get s.chan).textLength target (posAfter (decode s.textAhead).1 s.cur.mmlPos).toNat
      < wayTo (s.mml.get s.chan).textLength target s.cur.mmlPos.toNat := by
  have hpos := h.cur.posInText
  have hlen : (s.mml.get s.chan).textLength ≤ 512 := textLength_le _
  by_cases heos : (decode s.textAhead).1 = .eos
  · have hend := (token_eq_eos_iff hpos).1 heos
    rw [heos, posAfter_eos, hend, wayTo_behind htarget, wayTo_ahead (show (0#10).toNat ≤ target from Nat.zero_le _)]
    omega
  have hsize := tokenSize_pos (decode s.textAhead).1
  have hinText := tokenSize_inText hpos heos
  have hmoved : (posAfter (decode s.textAhead).1 s.cur.mmlPos).toNat
      = s.cur.mmlPos.toNat + tokenSize (decode s.textAhead).1 := by
    rw [posAfter_of_ne heos, BitVec.toNat_add, BitVec.toNat_ofNat]
    omega
  rw [hmoved]
  rcases Nat.lt_or_gt_of_ne hother with hahead | hbehind
  · have hstop := token_ends_before_playable hahead (htarget.trans_le hlen) hplay heos
    rw [wayTo_ahead hstop, wayTo_ahead hahead.le]
    omega
  · rw [wayTo_behind hbehind, wayTo_behind (by omega)]
    omega

end

/-- A run is over by the time the way to a note or a rest of the text is used up. -/
theorem parse_ends_within_wayTo {target : Nat} (n : Nat) (s : State) (h : Inv s) (hphase : s.phase = .parse)
    (htarget : target < (s.mml.get s.chan).textLength)
    (hplay : isPlayableByte ((s.mml.get s.chan).fetch target) = true)
    (hway : wayTo (s.mml.get s.chan).textLength target s.cur.mmlPos.toNat ≤ n) :
    ∃ k t, k ≤ n ∧ runSteps k s = .next t ∧ t.phase ≠ .parse ∧ t.sent = s.sent := by
  induction n generalizing s with
  | zero =>
    unfold wayTo at hway
    split at hway <;> omega
  | succ n ih =>
    cases hhere : isPlayableByte ((s.mml.get s.chan).fetch s.cur.mmlPos.toNat) with
    | true =>
      obtain ⟨t, hstep, hleft, hsent⟩ := step_of_playable h hphase hhere
      exact ⟨1, t, Nat.succ_le_succ (Nat.zero_le n), runSteps_succ 0 hstep, hleft, hsent⟩
    | false =>
      have hother : s.cur.mmlPos.toNat ≠ target := by
        rintro rfl
        rw [hplay] at hhere
        exact Bool.noConfusion hhere
      obtain ⟨c, hstep, hinv, hmoved⟩ := step_of_not_playable h hphase hhere
      have hshorter := wayTo_posAfter_lt h htarget hplay hother
      have hway' : wayTo ((s.setCur c).mml.get (s.setCur c).chan).textLength target (s.setCur c).cur.mmlPos.toNat ≤ n := by
        rw [cur_setCur, hmoved, setCur_mml, setCur_chan]
        omega
      obtain ⟨k, t, hk, hrun, hleft, hsent⟩ := ih (s.setCur c) hinv hphase htarget hplay hway'
      exact ⟨k + 1, t, Nat.succ_le_succ hk, (runSteps_succ k hstep).trans hrun, hleft, hsent⟩

/-- Settles O57: the way to a note is at most the whole text, its end and the note, 513 tokens. -/
theorem textWithANoteEndsTheParse : Obligations.TextWithANoteEndsTheParse := by
  rintro s h hphase ⟨target, htarget, hplay⟩
  have hlen : (s.mml.get s.chan).textLength ≤ 512 := textLength_le _
  rw [← Memory.fetch_of_lt _ (htarget.trans_le hlen)] at hplay
  have hway := wayTo_le (pos := s.cur.mmlPos.toNat) htarget
  exact parse_ends_within_wayTo 1026 s h hphase htarget hplay (by omega)

end Sys2Proof.Machine
end

section
/-! PROOF. The commands: the value each stores from its run of digits, and the octave tokens in a row
(41_mml_commands.md R133 to R146). -/

namespace Sys2Proof.Machine

/-! ### The value stored, as a formula of the number (41_mml_commands.md R133) -/

theorem numberOf_le (digits : List Nat) : numberOf digits ≤ 65535 := Nat.min_le_right _ _

/-- The default of `T` and `L` stands where the number is 0. -/
theorem ite_pos_ofNat (n fallback : Nat) :
    (if 1 ≤ n then BitVec.ofNat 16 n else BitVec.ofNat 16 fallback) = BitVec.ofNat 16 (if n = 0 then fallback else n) := by
  cases n with
  | zero => rfl
  | succ n => rw [if_pos (Nat.le_add_left 1 n), if_neg (Nat.succ_ne_zero n)]

section
variable (digits : List Nat)

theorem tempoOperand_eq :
    tempoOperand (parseNum digits) = BitVec.ofNat 16 (if numberOf digits = 0 then 120 else numberOf digits) := by
  cases digits with
  | nil => rfl
  | cons digit rest => rw [parseNum_cons, tempoOperand, ite_pos_ofNat]

theorem keylenOperand_eq :
    keylenOperand (parseNum digits) = BitVec.ofNat 16 (if numberOf digits = 0 then 4 else numberOf digits) := by
  cases digits with
  | nil => rfl
  | cons digit rest => rw [parseNum_cons, keylenOperand, ite_pos_ofNat]

theorem octaveOperand_eq :
    octaveOperand (parseNum digits) = BitVec.ofNat 3 (if digits = [] then 4 else min (numberOf digits - 1) 7) := by
  cases digits with
  | nil => rfl
  | cons digit rest => rw [parseNum_cons, octaveOperand, if_neg (List.cons_ne_nil _ _), clamp, Nat.zero_max]

theorem volumeOperand_eq :
    volumeOperand (parseNum digits) = BitVec.ofNat 4 (if digits = [] then 15 else min (numberOf digits) 15) := by
  cases digits with
  | nil => rfl
  | cons digit rest => rw [parseNum_cons, volumeOperand, if_neg (List.cons_ne_nil _ _)]

theorem pwmOperand_eq :
    pwmOperand (parseNum digits) = BitVec.ofNat 7 (if digits = [] then 50 else max 1 (min (numberOf digits) 99)) := by
  cases digits with
  | nil => rfl
  | cons digit rest => rw [parseNum_cons, pwmOperand, if_neg (List.cons_ne_nil _ _), clamp]

theorem gateOperand_eq :
    gateOperand (parseNum digits) = BitVec.ofNat 4 (if digits = [] then 8 else max 1 (min (numberOf digits) 8)) := by
  cases digits with
  | nil => rfl
  | cons digit rest => rw [parseNum_cons, gateOperand, if_neg (List.cons_ne_nil _ _), clamp]

theorem selectorOperand_eq : selectorOperand (parseNum digits) = BitVec.ofNat 8 (min (numberOf digits) 255) := by
  cases digits with
  | nil => rfl
  | cons digit rest => rw [parseNum_cons, selectorOperand]

theorem envLenOperand_eq : envLenOperand (parseNum digits) = BitVec.ofNat 16 (max (numberOf digits) 1) := by
  cases digits with
  | nil => rfl
  | cons digit rest => rw [parseNum_cons, envLenOperand]

theorem depthOperand_eq : depthOperand (parseNum digits) = BitVec.ofNat 16 (numberOf digits) := by
  cases digits with
  | nil => rfl
  | cons digit rest => rw [parseNum_cons, depthOperand]

/-- The number and the default of `T` and `L` fit their registers, so the note-length formula sees them uncut. -/
theorem toNat_number_or {fallback : Nat} (hfallback : fallback ≤ 65535) :
    (BitVec.ofNat 16 (if numberOf digits = 0 then fallback else numberOf digits)).toNat
      = if numberOf digits = 0 then fallback else numberOf digits := by
  have hnum := numberOf_le digits
  rw [BitVec.toNat_ofNat]
  split <;> omega

end

/-! ### The commands -/

/-- Settles O15: `def_len` is the note-length formula at the tempo stored. -/
theorem tSetsTempoAndDefLen : Obligations.TSetsTempoAndDefLen := by
  refine ⟨fun _ => ⟨rfl, rfl⟩, fun k digits s => ?_⟩
  simp only [exec, execT, tempoOperand_eq, toNat_number_or digits (fallback := 120) (by decide)]
  rfl

/-- Settles O16: `def_len` is the note-length formula at the denominator stored. -/
theorem lSetsKeylenAndDefLen : Obligations.LSetsKeylenAndDefLen := by
  refine ⟨fun _ => ⟨rfl, rfl⟩, fun k digits s => ?_⟩
  simp only [exec, execL, keylenOperand_eq, toNat_number_or digits (fallback := 4) (by decide)]
  rfl

/-- Settles O17: the value stored is the octave operand. -/
theorem oSetsOctaveClamped : Obligations.OSetsOctaveClamped :=
  ⟨fun _ => ⟨rfl, rfl⟩, fun _ digits _ => by rw [← octaveOperand_eq digits]; rfl⟩

/-- Settles O18: the value stored is the volume operand. -/
theorem vSetsLocalVolume : Obligations.VSetsLocalVolume :=
  ⟨fun _ => ⟨rfl, rfl⟩, fun _ digits _ => by rw [← volumeOperand_eq digits]; rfl⟩

/-- Settles O19: the value stored is the duty operand. -/
theorem xSetsPwmRateClamped : Obligations.XSetsPwmRateClamped :=
  ⟨fun _ => ⟨rfl, rfl⟩, fun _ digits _ => by rw [← pwmOperand_eq digits]; rfl⟩

/-- Settles O20: the value stored is the gate operand. -/
theorem qSetsToneRateClamped : Obligations.QSetsToneRateClamped :=
  ⟨fun _ => ⟨rfl, rfl⟩, fun _ digits _ => by rw [← gateOperand_eq digits]; rfl⟩

/-- Settles O21: the three tokens share one operand. -/
theorem shapeAndTimbreTokensSetTheirSelectors : Obligations.ShapeAndTimbreTokensSetTheirSelectors := by
  simp only [Obligations.ShapeAndTimbreTokensSetTheirSelectors, ← selectorOperand_eq]
  exact ⟨⟨fun _ => ⟨rfl, rfl⟩, fun _ _ _ => rfl⟩, ⟨fun _ => ⟨rfl, rfl⟩, fun _ _ _ => rfl⟩,
    fun _ => rfl, fun _ _ => rfl⟩

/-- Settles O22: the value stored is the envelope step operand. -/
theorem mSetsEnvelopeStep : Obligations.MSetsEnvelopeStep :=
  ⟨fun _ => ⟨rfl, rfl⟩, fun _ digits _ => by rw [← envLenOperand_eq digits]; rfl⟩

/-- Settles O23: the value stored is the depth operand. -/
theorem hSetsTuneDepth : Obligations.HSetsTuneDepth :=
  ⟨fun _ => ⟨rfl, rfl⟩, fun _ digits _ => by rw [← depthOperand_eq digits]; rfl⟩

/-! ### The octave tokens in a row (41_mml_commands.md R137, R138) -/

theorem setCur_cur (s : State) : s.setCur s.cur = s := by
  simp only [State.setCur, State.cur, set_get_same]

theorem setCur_setCur (s : State) (c d : Channel) : (s.setCur c).setCur d = s.setCur d := by
  simp only [State.setCur, set_set_same]

theorem execAll_cons {i : Instr} {s t : State} (rest : List Instr) (h : exec i s = .next t) :
    execAll (i :: rest) s = execAll rest t := by
  simp only [execAll, h]

/-- A token that is a function of its channel's registers, in a row, is that function iterated. -/
theorem execAll_replicate {i : Instr} {f : Channel → Channel} (h : ∀ s, exec i s = .next (s.setCur (f s.cur)))
    (n : Nat) (s : State) : execAll (List.replicate n i) s = .next (s.setCur (f^[n] s.cur)) := by
  induction n generalizing s with
  | zero => rw [Function.iterate_zero_apply, setCur_cur]; rfl
  | succ n ih => rw [List.replicate_succ, execAll_cons _ (h s), ih, cur_setCur, setCur_setCur, Function.iterate_succ_apply]

/-- The registers after `>`. -/
def octaveUp (c : Channel) : Channel := { c.advance 1 with octave := BitVec.ofNat 3 (min (c.octave.toNat + 1) 7) }

/-- The registers after `<`. -/
def octaveDown (c : Channel) : Channel := { c.advance 1 with octave := BitVec.ofNat 3 (c.octave.toNat - 1) }

theorem exec_octUp (s : State) : exec .octUp s = .next (s.setCur (octaveUp s.cur)) := rfl

theorem exec_octDown (s : State) : exec .octDown s = .next (s.setCur (octaveDown s.cur)) := rfl

theorem octaveUp_octave (c : Channel) : (octaveUp c).octave.toNat = min (c.octave.toNat + 1) 7 := by
  rw [octaveUp, BitVec.toNat_ofNat]
  omega

theorem octaveDown_octave (c : Channel) : (octaveDown c).octave.toNat = c.octave.toNat - 1 := by
  have hoct := c.octave.isLt
  rw [octaveDown, BitVec.toNat_ofNat]
  omega

theorem iterate_octaveUp_octave (n : Nat) (c : Channel) : (octaveUp^[n] c).octave.toNat = min (c.octave.toNat + n) 7 := by
  have hoct := c.octave.isLt
  induction n with
  | zero => rw [Function.iterate_zero_apply]; omega
  | succ n ih => rw [Function.iterate_succ_apply', octaveUp_octave, ih]; omega

theorem iterate_octaveDown_octave (n : Nat) (c : Channel) : (octaveDown^[n] c).octave.toNat = c.octave.toNat - n := by
  induction n with
  | zero => rfl
  | succ n ih => rw [Function.iterate_succ_apply', octaveDown_octave, ih]; omega

/-- Settles O24: the clamp holds after every token, so it holds once at the end. -/
theorem octUpClampsAtSeven : Obligations.OctUpClampsAtSeven := by
  refine ⟨fun _ => rfl, exec_octUp, fun n s => ⟨_, execAll_replicate exec_octUp n s, ?_⟩⟩
  rw [setCur_channels, get_set_same]
  exact iterate_octaveUp_octave n s.cur

/-- Settles O25: the clamp is that of the difference of natural numbers. -/
theorem octDownClampsAtZero : Obligations.OctDownClampsAtZero := by
  refine ⟨fun _ => rfl, exec_octDown, fun n s => ⟨_, execAll_replicate exec_octDown n s, ?_⟩⟩
  rw [setCur_channels, get_set_same]
  exact iterate_octaveDown_octave n s.cur

end Sys2Proof.Machine
end

section
/-! PROOF. The modulators: what one prologue does to `int_vol` and `fr_tune` in each shape, and what any number of
them in a row have done (42_modulators.md R160 to R169). -/

namespace Sys2Proof.Machine

/-! ### What a prologue leaves, and the tick it counts (42_modulators.md R160) -/

section
variable (c : Channel)

@[simp] theorem modulate_envNo : (modulate c).envNo = c.envNo := by obtain ⟨v, w, h⟩ := modulate_frame c; rw [h]

@[simp] theorem modulate_pitchNo : (modulate c).pitchNo = c.pitchNo := by obtain ⟨v, w, h⟩ := modulate_frame c; rw [h]

@[simp] theorem modulate_envLen : (modulate c).envLen = c.envLen := by obtain ⟨v, w, h⟩ := modulate_frame c; rw [h]

@[simp] theorem modulate_localVol : (modulate c).localVol = c.localVol := by obtain ⟨v, w, h⟩ := modulate_frame c; rw [h]

@[simp] theorem modulate_tuneDepth : (modulate c).tuneDepth = c.tuneDepth := by obtain ⟨v, w, h⟩ := modulate_frame c; rw [h]

/-- The value of `frame_pos` a prologue brings the counter to, and its modulators act on. -/
theorem modulate_framePos : (modulate c).framePos.toNat = min (c.framePos.toNat + 1) 4294967295 := by
  obtain ⟨v, w, h⟩ := modulate_frame c
  rw [h]
  exact sat32_toNat _

/-- A register that no prologue writes. -/
theorem iterate_modulate_keeps {α : Type} {field : Channel → α} (h : ∀ d, field (modulate d) = field d) (k : Nat) :
    field (modulate^[k] c) = field c := by
  induction k with
  | zero => rfl
  | succ k ih => rw [Function.iterate_succ_apply', h, ih]

theorem iterate_modulate_framePos (k : Nat) :
    (modulate^[k] c).framePos.toNat = min (c.framePos.toNat + k) 4294967295 := by
  have hwidth := c.framePos.isLt
  induction k with
  | zero => rw [Function.iterate_zero_apply]; omega
  | succ k ih => rw [Function.iterate_succ_apply', modulate_framePos, ih]; omega

end

section
variable {c : Channel}

/-- From the start of a note the counter is the number of ticks, until it saturates. -/
theorem iterate_modulate_framePos_of_start (hstart : c.framePos = 0#32) {k : Nat} (hk : k < 2 ^ 32) :
    (modulate^[k] c).framePos.toNat = k := by
  rw [iterate_modulate_framePos, hstart, BitVec.toNat_ofNat]
  omega

/-! ### One step of the envelope, by shape (42_modulators.md R161 to R164) -/

/-- The registers the modulators of a prologue act on: the tick is counted first. -/
abbrev counted (c : Channel) : Channel := { c with framePos := sat32 (c.framePos.toNat + 1) }

/-- The envelope acts in every prologue: the counter it tests has just been incremented. -/
theorem counted_pos (c : Channel) : 0 < (counted c).framePos.toNat := by
  rw [sat32_toNat]
  omega

theorem envelope_of_shape1 (hpos : 0 < c.framePos.toNat) (hshape : c.envNo = 1#8) : envelope c = envShape1 c := by
  rw [envelope, if_pos hpos, hshape]; rfl

theorem envelope_of_shape2 (hpos : 0 < c.framePos.toNat) (hshape : c.envNo = 2#8) : envelope c = envShape2 c := by
  rw [envelope, if_pos hpos, hshape]; rfl

theorem envelope_of_shape3 (hpos : 0 < c.framePos.toNat) (hshape : c.envNo = 3#8) : envelope c = envShape3 c := by
  rw [envelope, if_pos hpos, hshape]; rfl

theorem envelope_of_flat (hflat : c.envNo.toNat = 0 ∨ 4 ≤ c.envNo.toNat) : envelope c = c := by
  unfold envelope
  split
  · split
    case h_4 => rfl
    all_goals omega
  · rfl

/-- A smaller volume fits the register. -/
theorem toNat_volume_sub (v : BitVec 4) (n : Nat) : (BitVec.ofNat 4 (v.toNat - n)).toNat = v.toNat - n := by
  have hwidth := v.isLt
  rw [BitVec.toNat_ofNat]
  omega

theorem modulate_intVol_of_shape1 (hshape : c.envNo = 1#8) :
    (modulate c).intVol.toNat =
      if c.intVol.toNat > 3 * c.localVol.toNat / 4 then c.intVol.toNat - 1 else c.intVol.toNat := by
  rw [modulate_intVol, envelope_of_shape1 (counted_pos c) hshape, envShape1]
  split
  · exact toNat_volume_sub _ _
  · rfl

theorem modulate_intVol_of_shape2 (hshape : c.envNo = 2#8) :
    (modulate c).intVol.toNat =
      if c.intVol.toNat > c.localVol.toNat / 2 then c.intVol.toNat - 2 else c.intVol.toNat := by
  rw [modulate_intVol, envelope_of_shape2 (counted_pos c) hshape, envShape2]
  split
  · exact toNat_volume_sub _ _
  · rfl

/-- The floor at 0 is that of the difference of natural numbers. -/
theorem envShape3_intVol (c : Channel) :
    (envShape3 c).intVol.toNat =
      if c.framePos.toNat % c.envLen.toNat = 0 then c.intVol.toNat - 1 else c.intVol.toNat := by
  rw [envShape3]
  by_cases hmul : c.framePos.toNat % c.envLen.toNat = 0
  · by_cases hvol : c.intVol.toNat > 0
    · rw [if_pos ⟨hmul, hvol⟩, if_pos hmul, toNat_volume_sub]
    · rw [if_neg (fun h => hvol h.2), if_pos hmul]
      omega
  · rw [if_neg (fun h => hmul h.1), if_neg hmul]

theorem modulate_intVol_of_shape3 (hshape : c.envNo = 3#8) :
    (modulate c).intVol.toNat =
      if min (c.framePos.toNat + 1) 4294967295 % c.envLen.toNat = 0 then c.intVol.toNat - 1 else c.intVol.toNat := by
  rw [modulate_intVol, envelope_of_shape3 (counted_pos c) hshape, envShape3_intVol, sat32_toNat]

theorem modulate_intVol_of_flat (hflat : c.envNo.toNat = 0 ∨ 4 ≤ c.envNo.toNat) : (modulate c).intVol = c.intVol := by
  rw [modulate_intVol, envelope_of_flat (c := counted c) hflat]

/-! ### One step of the pitch, by shape (42_modulators.md R165 to R169) -/

theorem pitch_before_onset (hearly : c.framePos.toNat < 8) : pitch c = c :=
  if_neg (Nat.not_le.2 hearly)

theorem pitch_of_flat (hflat : c.pitchNo.toNat = 0 ∨ 4 ≤ c.pitchNo.toNat) : pitch c = c := by
  unfold pitch
  split
  · split
    case h_4 => rfl
    all_goals omega
  · rfl

theorem pitch_of_vibrato (honset : 8 ≤ c.framePos.toNat) (hshape : c.pitchNo = 1#8) : pitch c = pitchShape1 c := by
  rw [pitch, onsetDelay, if_pos honset, hshape]; rfl

theorem pitchShape1_frTune (c : Channel) :
    (pitchShape1 c).frTune.toInt =
      if c.framePos.toNat / c.envLen.toNat % 2 = 0 then (c.tuneDepth.toNat : Int) else -(c.tuneDepth.toNat : Int) := by
  have hdepth := c.tuneDepth.isLt
  unfold pitchShape1
  split <;> (rw [BitVec.toInt_ofInt_eq_self] <;> omega)

theorem modulate_frTune_before_onset (hearly : min (c.framePos.toNat + 1) 4294967295 < 8) :
    (modulate c).frTune = c.frTune := by
  rw [← sat32_toNat] at hearly
  rw [modulate_frTune, pitch_before_onset (c := counted c) hearly]

theorem modulate_frTune_of_flat (hflat : c.pitchNo.toNat = 0 ∨ 4 ≤ c.pitchNo.toNat) : (modulate c).frTune = c.frTune := by
  rw [modulate_frTune, pitch_of_flat (c := counted c) hflat]

theorem modulate_frTune_of_vibrato (hshape : c.pitchNo = 1#8) (honset : 8 ≤ min (c.framePos.toNat + 1) 4294967295) :
    (modulate c).frTune.toInt =
      if min (c.framePos.toNat + 1) 4294967295 / c.envLen.toNat % 2 = 0 then (c.tuneDepth.toNat : Int)
      else -(c.tuneDepth.toNat : Int) := by
  rw [← sat32_toNat] at honset ⊢
  rw [modulate_frTune, pitch_of_vibrato (c := counted c) honset hshape, pitchShape1_frTune]

/-- The signed depth that drum pitch-up (shape 2) and sweep (shape 3) accumulate. -/
def pitchStride (c : Channel) : Int := if c.pitchNo = 2#8 then (c.tuneDepth.toNat : Int) else -(c.tuneDepth.toNat : Int)

theorem pitchStride_of_drum (hshape : c.pitchNo = 2#8) : pitchStride c = (c.tuneDepth.toNat : Int) := if_pos hshape

theorem pitchStride_of_sweep (hshape : c.pitchNo = 3#8) : pitchStride c = -(c.tuneDepth.toNat : Int) := by
  rw [pitchStride, hshape]; rfl

theorem modulate_pitchStride (c : Channel) : pitchStride (modulate c) = pitchStride c := by
  rw [pitchStride, pitchStride, modulate_pitchNo, modulate_tuneDepth]

/-- Shapes 2 and 3 are one rule: they differ in the sign of the stride only. -/
theorem pitch_of_stride (hshape : c.pitchNo = 2#8 ∨ c.pitchNo = 3#8) :
    (pitch c).frTune =
      if 8 ≤ c.framePos.toNat ∧ c.framePos.toNat % c.envLen.toNat = 0 then sats32 (c.frTune.toInt + pitchStride c)
      else c.frTune := by
  by_cases honset : 8 ≤ c.framePos.toNat
  · simp only [pitch, onsetDelay, ge_iff_le, honset, if_true, true_and]
    rcases hshape with hdrum | hsweep
    · rw [pitchStride_of_drum hdrum, hdrum]
      exact apply_ite Channel.frTune _ _ _
    · rw [pitchStride_of_sweep hsweep, ← sub_eq_add_neg, hsweep]
      exact apply_ite Channel.frTune _ _ _
  · rw [pitch_before_onset (Nat.not_le.1 honset), if_neg (fun h => honset h.1)]

theorem modulate_frTune_of_stride (hshape : c.pitchNo = 2#8 ∨ c.pitchNo = 3#8) :
    (modulate c).frTune.toInt =
      if 8 ≤ min (c.framePos.toNat + 1) 4294967295 ∧ min (c.framePos.toNat + 1) 4294967295 % c.envLen.toNat = 0
      then max (-2147483647) (min 2147483647 (c.frTune.toInt + pitchStride c)) else c.frTune.toInt := by
  rw [modulate_frTune, pitch_of_stride (c := counted c) hshape, ← sat32_toNat, apply_ite BitVec.toInt, sats32_toInt, min_comm]
  rfl

/-! ### The strides of a note (42_modulators.md R165, R167, R168) -/

/-- How many of the ticks 1 to `k` are at least 8 and multiples of `period`. -/
def stridesTaken (period k : Nat) : Nat := k / period - 7 / period

theorem stridesTaken_zero (period : Nat) : stridesTaken period 0 = 0 := by
  rw [stridesTaken, Nat.zero_div, Nat.zero_sub]

theorem stridesTaken_succ (period k : Nat) :
    stridesTaken period (k + 1) = stridesTaken period k + if 8 ≤ k + 1 ∧ (k + 1) % period = 0 then 1 else 0 := by
  rw [stridesTaken, stridesTaken]
  by_cases honset : 7 ≤ k
  · have hpast : 7 / period ≤ k / period := Nat.div_le_div_right honset
    simp only [Nat.succ_div (a := k), Nat.dvd_iff_mod_eq_zero, Nat.succ_le_succ honset, true_and]
    split <;> omega
  · have hbefore : (k + 1) / period ≤ 7 / period := Nat.div_le_div_right (by omega)
    have hbefore' : k / period ≤ 7 / period := Nat.div_le_div_right (by omega)
    rw [if_neg (fun h => honset (by omega))]
    omega

/-- Saturating after every stride is saturating once at the end: the strides of a note have one sign. -/
theorem saturate_add_stride (stride : Int) (n : Nat) :
    max (-2147483647) (min 2147483647 (max (-2147483647) (min 2147483647 (stride * (n : Int))) + stride))
      = max (-2147483647) (min 2147483647 (stride * ((n + 1 : Nat) : Int))) := by
  rw [Nat.cast_succ, mul_add, mul_one]
  rcases le_total 0 stride with hup | hdown
  · have hsum : 0 ≤ stride * (n : Int) := mul_nonneg hup (Int.natCast_nonneg n)
    omega
  · have hsum : stride * (n : Int) ≤ 0 := mul_nonpos_of_nonpos_of_nonneg hdown (Int.natCast_nonneg n)
    omega

/-- The closed form of shapes 2 and 3 from the start of a note. -/
theorem iterate_modulate_frTune_of_stride (hshape : c.pitchNo = 2#8 ∨ c.pitchNo = 3#8) (hstart : c.framePos = 0#32)
    (htune : c.frTune = 0#32) (k : Nat) (hk : k < 2 ^ 32) :
    (modulate^[k] c).frTune.toInt =
      max (-2147483647) (min 2147483647 (pitchStride c * (stridesTaken c.envLen.toNat k : Int))) := by
  induction k with
  | zero => rw [Function.iterate_zero_apply, htune, stridesTaken_zero, Nat.cast_zero, mul_zero]; rfl
  | succ k ih =>
    have hpos := iterate_modulate_framePos_of_start hstart (k := k) (by omega)
    have hshape' : (modulate^[k] c).pitchNo = 2#8 ∨ (modulate^[k] c).pitchNo = 3#8 := by
      rwa [iterate_modulate_keeps c modulate_pitchNo]
    rw [Function.iterate_succ_apply', modulate_frTune_of_stride hshape', hpos, Nat.min_eq_left (by omega),
      iterate_modulate_keeps c modulate_envLen, iterate_modulate_keeps c modulate_pitchStride, ih (by omega),
      stridesTaken_succ]
    split
    · exact saturate_add_stride _ _
    · rfl

end

/-! ### The envelope over the ticks of a note -/

/-- Settles O29, by induction on the ticks. -/
theorem envelopeShapeOneRampsToThreeQuarters : Obligations.EnvelopeShapeOneRampsToThreeQuarters := by
  intro c k hshape
  induction k with
  | zero => rw [Function.iterate_zero_apply]; split <;> omega
  | succ k ih =>
    have hshape' : (modulate^[k] c).envNo = 1#8 := (iterate_modulate_keeps c modulate_envNo k).trans hshape
    rw [Function.iterate_succ_apply', modulate_intVol_of_shape1 hshape', iterate_modulate_keeps c modulate_localVol, ih]
    split <;> split <;> omega

/-- Settles O30: the number of steps to the target is half the distance, rounded up. -/
theorem envelopeShapeTwoRampsToHalf : Obligations.EnvelopeShapeTwoRampsToHalf := by
  refine fun c hshape => ⟨modulate_intVol_of_shape2 hshape, fun k => ?_⟩
  induction k with
  | zero => rw [Function.iterate_zero_apply]; omega
  | succ k ih =>
    have hshape' : (modulate^[k] c).envNo = 2#8 := (iterate_modulate_keeps c modulate_envNo k).trans hshape
    rw [Function.iterate_succ_apply', modulate_intVol_of_shape2 hshape', iterate_modulate_keeps c modulate_localVol, ih]
    split <;> omega

/-- Settles O31: from the start of a note the counter is the number of ticks, so the multiples of `env_len` are counted
by the quotient. -/
theorem envelopeShapeThreeStepsEveryEnvLen : Obligations.EnvelopeShapeThreeStepsEveryEnvLen := by
  refine ⟨fun c hshape _ => modulate_intVol_of_shape3 hshape, fun c k hshape _ hstart hk => ?_⟩
  induction k with
  | zero => rw [Function.iterate_zero_apply, Nat.zero_div, Nat.sub_zero]
  | succ k ih =>
    have hshape' : (modulate^[k] c).envNo = 3#8 := (iterate_modulate_keeps c modulate_envNo k).trans hshape
    have hpos := iterate_modulate_framePos_of_start hstart (k := k) (by omega)
    rw [Function.iterate_succ_apply', modulate_intVol_of_shape3 hshape', hpos, Nat.min_eq_left (by omega),
      iterate_modulate_keeps c modulate_envLen, ih (by omega)]
    simp only [Nat.succ_div, Nat.dvd_iff_mod_eq_zero]
    split <;> omega

/-- Settles O32: one prologue leaves the register, and leaves the shape flat. -/
theorem flatShapesChangeNothing : Obligations.FlatShapesChangeNothing := by
  refine fun c k => ⟨fun hflat => ?_, fun hflat => ?_⟩
  · induction k with
    | zero => rfl
    | succ k ih =>
      rw [← iterate_modulate_keeps c modulate_envNo k] at hflat
      rw [Function.iterate_succ_apply', modulate_intVol_of_flat hflat, ih]
  · induction k with
    | zero => rfl
    | succ k ih =>
      rw [← iterate_modulate_keeps c modulate_pitchNo k] at hflat
      rw [Function.iterate_succ_apply', modulate_frTune_of_flat hflat, ih]

/-! ### The pitch over the ticks of a note -/

/-- Settles O33: one step on each side of the onset. -/
theorem vibratoAlternatesAfterOnset : Obligations.VibratoAlternatesAfterOnset :=
  fun _ hshape _ => ⟨modulate_frTune_before_onset, modulate_frTune_of_vibrato hshape⟩

/-- Settles O34: both shapes accumulate the stride; its sign decides which of the two bounds can be reached. -/
theorem drumAndSweepAccumulate : Obligations.DrumAndSweepAccumulate := by
  refine ⟨fun c _ => ⟨fun hdrum => ?_, fun hsweep => ?_⟩,
    fun c k _ hstart htune hk => ⟨fun hdrum => ?_, fun hsweep => ?_⟩⟩
  · rw [modulate_frTune_of_stride (Or.inl hdrum), pitchStride_of_drum hdrum]
  · rw [modulate_frTune_of_stride (Or.inr hsweep), pitchStride_of_sweep hsweep, sub_eq_add_neg]
  · rw [iterate_modulate_frTune_of_stride (Or.inl hdrum) hstart htune k hk, pitchStride_of_drum hdrum, ← Nat.cast_mul,
      stridesTaken]
    omega
  · rw [iterate_modulate_frTune_of_stride (Or.inr hsweep) hstart htune k hk, pitchStride_of_sweep hsweep, neg_mul,
      ← Nat.cast_mul, stridesTaken]
    omega

end Sys2Proof.Machine
end

section
/-! PROOF. The waveform generator: the phase accumulator, the two kinds of timbre, the scaling of a sample, and the
sample step that puts it into the frame buffer (43_waveform.md R180 to R191). -/

namespace Sys2Proof.Machine

/-! ### The phase accumulator (43_waveform.md R181, R182) -/

section
variable {cfg : Config} {c : Channel}

theorem phaseCount_eq (c : Channel) (P : Int) :
    phaseCount c P = if P ≤ (c.frCounter.toNat : Int) then 0 else c.frCounter.toNat := rfl

theorem wave_of_period_lt_one (hperiod : effectivePeriod c < 1) : wave cfg c = (0, 0#32) := if_pos hperiod

theorem wave_of_one_le_period (hperiod : 1 ≤ effectivePeriod c) :
    wave cfg c = (rawSample cfg c (effectivePeriod c) (phaseCount c (effectivePeriod c)),
      BitVec.ofNat 32 (phaseCount c (effectivePeriod c) + 1)) :=
  if_neg (Int.not_lt.2 hperiod)

/-- The largest period, offset included, is below the width of the phase accumulator. -/
theorem effectivePeriod_lt (c : Channel) : effectivePeriod c < 4294967296 := by
  have hvalue := c.frValue.isLt
  have htune := BitVec.toInt_lt (x := c.frTune)
  unfold effectivePeriod
  omega

theorem phaseCount_lt {P : Int} (hP : 1 ≤ P) : (phaseCount c P : Int) < P := by
  rw [phaseCount_eq]
  split <;> omega

/-- The increment after use never overflows: the count used is below the period. -/
theorem wave_counter (hperiod : 1 ≤ effectivePeriod c) :
    (wave cfg c).2.toNat = phaseCount c (effectivePeriod c) + 1 := by
  have hcount := phaseCount_lt (c := c) hperiod
  have hwidth := effectivePeriod_lt c
  rw [wave_of_one_le_period hperiod, BitVec.toNat_ofNat]
  omega

/-- One sample moves the count used on by one, around the period. -/
theorem phaseCount_phaseStep (hperiod : 1 ≤ effectivePeriod c) :
    phaseCount (phaseStep cfg c) (effectivePeriod c)
      = (phaseCount c (effectivePeriod c) + 1) % (effectivePeriod c).toNat := by
  have hcount := phaseCount_lt (c := c) hperiod
  have hcounter : (phaseStep cfg c).frCounter.toNat = phaseCount c (effectivePeriod c) + 1 := wave_counter hperiod
  rw [phaseCount_eq, hcounter]
  by_cases hwrap : phaseCount c (effectivePeriod c) + 1 = (effectivePeriod c).toNat
  · rw [if_pos (by omega), hwrap, Nat.mod_self]
  · rw [if_neg (by omega), Nat.mod_eq_of_lt (by omega)]

theorem iterate_phaseStep_effectivePeriod (n : Nat) : effectivePeriod ((phaseStep cfg)^[n] c) = effectivePeriod c := by
  induction n with
  | zero => rfl
  | succ n ih =>
    rw [Function.iterate_succ_apply']
    exact ih

end

/-- Settles O35, by induction on the samples: each moves the count on by one, around the period. -/
theorem phaseRunsThroughOnePeriod : Obligations.PhaseRunsThroughOnePeriod := by
  intro cfg c n hperiod hstart
  induction n with
  | zero => rw [Function.iterate_zero_apply, phaseCount_eq, hstart, Nat.zero_mod]; exact ite_self 0
  | succ n ih =>
    have hsame := iterate_phaseStep_effectivePeriod (cfg := cfg) (c := c) n
    have hstep := phaseCount_phaseStep (cfg := cfg) (hperiod.trans_eq hsame.symm)
    rw [hsame, ih] at hstep
    rw [Function.iterate_succ_apply', hstep, Nat.mod_add_mod]

/-- Settles O36: the two branches of `Wave`, by the period. -/
theorem phaseInRangeAtUse : Obligations.PhaseInRangeAtUse := fun _ c =>
  ⟨rfl, phaseCount_eq c, wave_of_period_lt_one, fun hperiod =>
    ⟨phaseCount_lt hperiod, wave_counter hperiod, by rw [wave_of_one_le_period hperiod]⟩⟩

/-! ### The PWM timbres (43_waveform.md R183 to R185) -/

section
variable {cfg : Config} {c : Channel}

theorem rawSample_of_pwm (htone : c.toneNo.toNat < 3) (P : Int) (count : Nat) :
    rawSample cfg c P count = pwmSample c P count := if_pos htone

/-- The threshold of a duty in percent is the quotient of natural numbers. -/
theorem pwmThreshold_eq (hrate : c.pwmRate.toNat ≤ 99) (P : Nat) :
    pwmThreshold c P = (P * (100 - c.pwmRate.toNat) / 100 : Nat) := by
  have hrest : (100 : Int) - c.pwmRate.toNat = (100 - c.pwmRate.toNat : Nat) := by omega
  rw [pwmThreshold, hrest]
  norm_cast

theorem gateOpen_iff (c : Channel) : gateOpen c = true ↔ c.slicePos.toNat ≤ c.len.toNat * c.toneRate.toNat / 8 :=
  decide_eq_true_iff

theorem pwmSample_eq (hrate : c.pwmRate.toNat ≤ 99) (P count : Nat) :
    pwmSample c P count =
      if c.slicePos.toNat ≤ c.len.toNat * c.toneRate.toNat / 8 ∧ P * (100 - c.pwmRate.toNat) / 100 < count
      then 32767 else 0 := by
  simp only [pwmSample, gateOpen_iff, pwmThreshold_eq hrate, gt_iff_lt, Nat.cast_lt, fullScale]

theorem pwmSample_high_iff (hrate : c.pwmRate.toNat ≤ 99) (hgate : c.slicePos.toNat ≤ c.len.toNat * c.toneRate.toNat / 8)
    (P count : Nat) : pwmSample c P count = 32767 ↔ P * (100 - c.pwmRate.toNat) / 100 < count := by
  simp [pwmSample_eq hrate, hgate]

end

/-- The counts of one period above a threshold. -/
theorem length_filter_range_above (P threshold : Nat) :
    ((List.range P).filter (fun count => decide (threshold < count))).length = P - 1 - threshold := by
  have habove : (List.range P).filter (fun count => decide (threshold + 1 ≤ count)) = List.Ico (threshold + 1) P := by
    rw [← List.Ico.zero_bot, List.Ico.filter_le, Nat.zero_max]
  rw [show P - 1 - threshold = P - (threshold + 1) by omega, ← List.Ico.length, ← habove]
  rfl

/-- Settles O37: with the gate open a sample is high exactly at the counts above the threshold. -/
theorem pwmDutyCount : Obligations.PwmDutyCount := by
  intro cfg c P _ _ hrate
  refine ⟨pwmSample_eq hrate P, fun count htone => ?_, fun hgate => ?_⟩
  · rw [rawSample_of_pwm htone, pwmSample_eq hrate]
  · simp only [pwmSample_high_iff hrate hgate]
    exact length_filter_range_above P _

/-! ### The wavetable timbres (43_waveform.md R186, R187) -/

theorem tableIndex_eq (P count : Nat) : tableIndex P count = 256 * count / P := by
  unfold tableIndex
  norm_cast

theorem tableIndex_le {P count : Nat} (hcount : count < P) : tableIndex P count ≤ 255 := by
  rw [tableIndex_eq]
  have hlt : 256 * count / P < 256 := Nat.div_lt_of_lt_mul (by omega)
  omega

theorem rawSample_of_table {cfg : Config} {c : Channel} (hlow : 3 ≤ c.toneNo.toNat) (hhigh : c.toneNo.toNat ≤ 6)
    (P : Int) (count : Nat) : rawSample cfg c P count = wavetableAt cfg (c.toneNo.toNat - 3) (tableIndex P count) := by
  rw [rawSample, if_neg (show ¬ c.toneNo.toNat < wtThreshold from Nat.not_lt.2 hlow), if_pos hhigh]
  rfl

theorem rawSample_of_unassigned {cfg : Config} {c : Channel} (htone : 7 ≤ c.toneNo.toNat) (P : Int) (count : Nat) :
    rawSample cfg c P count = 0 := by
  have hpwm : ¬ c.toneNo.toNat < wtThreshold := Nat.not_lt.2 (le_trans (by decide) htone)
  rw [rawSample, if_neg hpwm, if_neg (by omega)]

/-- Settles O38, by the timbre. -/
theorem tableIndexInRange : Obligations.TableIndexInRange := by
  refine ⟨fun P count hcount => ⟨tableIndex_eq P count, tableIndex_le hcount⟩, fun cfg c P count _ =>
    ⟨fun hlow hhigh => ?_, fun htone => rawSample_of_unassigned htone P count⟩⟩
  rw [rawSample_of_table hlow hhigh, tableIndex_eq, wavetableAt]

/-! ### Scaling and the mixer's sum (43_waveform.md R190, R191) -/

theorem configLegal_volCurve {cfg : Config} (h : configLegal cfg = true) : ∀ v ∈ cfg.volCurve, v.toNat ≤ 256 := by
  simp only [configLegal, Bool.and_eq_true, List.all_eq_true, decide_eq_true_eq] at h
  obtain ⟨⟨⟨⟨⟨⟨⟨-, hcurve⟩, -⟩, -⟩, -⟩, -⟩, -⟩, -⟩ := h
  exact hcurve

/-- No entry of a legal volume curve amplifies. -/
theorem volCurveAt_le {cfg : Config} (h : configLegal cfg = true) (v : BitVec 4) : volCurveAt cfg v ≤ 256 := by
  rw [volCurveAt, List.getD_eq_getElem?_getD]
  cases hentry : cfg.volCurve[v.toNat]? with
  | none => decide
  | some entry => exact configLegal_volCurve h entry (List.mem_of_getElem? hentry)

/-- One scaling by a curve entry stays in the 16-bit range. -/
theorem asr_mul_mem_range {w : Int} {gain : Nat} (hlow : -32768 ≤ w) (hhigh : w ≤ 32767) (hgain : gain ≤ 256) :
    -32768 ≤ asr (w * gain) 8 ∧ asr (w * gain) 8 ≤ 32767 := by
  have hnonneg : (0 : Int) ≤ gain := Int.natCast_nonneg gain
  constructor
  · refine le_asr _ _ _ ?_
    calc (-32768 : Int) * 2 ^ 8 ≤ -32768 * gain := by omega
      _ ≤ w * gain := mul_le_mul_of_nonneg_right hlow hnonneg
  · refine asr_le _ _ _ ?_
    calc w * gain ≤ 32767 * gain := mul_le_mul_of_nonneg_right hhigh hnonneg
      _ ≤ 32767 * 2 ^ 8 := by omega

/-- A number of the 16-bit range is held exactly by a buffer entry. -/
theorem toInt_ofInt_half {v : Int} (hlow : -32768 ≤ v) (hhigh : v ≤ 32767) : (BitVec.ofInt 16 v).toInt = v := by
  rw [BitVec.toInt_ofInt, Int.bmod_def]
  omega

theorem half_toInt_range (v : Half) : -32768 ≤ v.toInt ∧ v.toInt ≤ 32767 := by
  have hlow := BitVec.le_toInt v
  have hhigh := BitVec.toInt_lt (x := v)
  omega

/-- Settles O39: a legal curve entry keeps the range, and the scaler uses two of them in a row. -/
theorem scalingStaysInSampleRange : Obligations.ScalingStaysInSampleRange := by
  refine ⟨fun _ _ _ _ => rfl, fun cfg iv mv w hlegal hlow hhigh => ?_, fun s i => ?_⟩
  · obtain ⟨hlow₁, hhigh₁⟩ := asr_mul_mem_range hlow hhigh (volCurveAt_le hlegal iv)
    obtain ⟨hlow₂, hhigh₂⟩ : -32768 ≤ scale cfg iv mv w ∧ scale cfg iv mv w ≤ 32767 :=
      asr_mul_mem_range hlow₁ hhigh₁ (volCurveAt_le hlegal mv)
    exact ⟨⟨hlow₁, hhigh₁⟩, hlow₂, hhigh₂, toInt_ofInt_half hlow₂ hhigh₂⟩
  · have h0 := half_toInt_range (s.readBuf .ch0 i)
    have h1 := half_toInt_range (s.readBuf .ch1 i)
    have h2 := half_toInt_range (s.readBuf .ch2 i)
    have h3 := half_toInt_range (s.readBuf .ch3 i)
    unfold mixSum
    omega

/-! ### The sample step (44_mixer_driver.md R203) -/

/-- Where the engine stands after a sample step that leaves the registers `c`: in the parser of the channel if its
note has ended, else at the place after the sample. -/
def placeAfterSampleStep (s : State) (c : Channel) : Phase × ChannelId × Nat :=
  if c.len.toNat ≤ c.slicePos.toNat then (.parse, s.chan, s.idx) else placeAfterSample s.cfg.nTick s.chan s.idx

/-- The whole next state of a sample step: the registers, one buffer entry and the engine's place. -/
theorem step_sample {s : State} (hphase : s.phase = .sample) (hidx : s.idx < bufMax) :
    step s = .next
      { (s.setCur (sampled s.cfg s.masterVol s.cur)).writeBuf s.chan s.idx
          (BitVec.ofInt 16 (nextSampleOf s.cfg s.masterVol s.cur).1) with
        phase := (placeAfterSampleStep s (sampled s.cfg s.masterVol s.cur)).1
        chan := (placeAfterSampleStep s (sampled s.cfg s.masterVol s.cur)).2.1
        idx := (placeAfterSampleStep s (sampled s.cfg s.masterVol s.cur)).2.2 } := by
  simp only [step, hphase, sampleStep, if_pos hidx, placeAfterSampleStep, ge_iff_le]
  split
  · rfl
  · rw [nextSample_eq_place]
    rfl

theorem nextSampleOf_rest {c : Channel} (hrest : c.frValue = 0#16) (cfg : Config) (masterVol : BitVec 4) :
    nextSampleOf cfg masterVol c = (0, c.frCounter) := if_pos hrest

theorem sampled_rest {c : Channel} (hrest : c.frValue = 0#16) (cfg : Config) (masterVol : BitVec 4) :
    sampled cfg masterVol c = { c with slicePos := sat32 (c.slicePos.toNat + 1) } := by
  rw [sampled, nextSampleOf_rest hrest]

/-- Settles O40: a resting channel contributes 0 and keeps its phase accumulator. -/
theorem restSampleWritesZero : Obligations.RestSampleWritesZero := by
  intro s hphase hidx hrest
  have hrest' : s.cur.frValue = 0#16 := hrest
  refine ⟨_, step_sample hphase hidx, ?entry, fun ch a hother => readBuf_writeBuf_other _ _ hother, ?registers, ?place,
    rfl, rfl, rfl, rfl, rfl, rfl, rfl, rfl, rfl⟩
  case entry =>
    rw [nextSampleOf_rest hrest']
    exact readBuf_writeBuf_same _ _ _ _
  case registers =>
    rw [sampled_rest hrest']
    rfl
  case place =>
    simp only [sampled_rest hrest', placeAfterSampleStep, sat32_toNat]
    rfl

end Sys2Proof.Machine
end

section
/-! PROOF. The sounding sample, the prologue and the frame word: what each part of a channel's tick and the mixer
compute (42_modulators.md R160, 44_mixer_driver.md R202 to R205). -/

namespace Sys2Proof.Machine

/-! ### The prologue (44_mixer_driver.md R202) -/

/-- Each envelope shape lowers the volume under its own condition, and else leaves it. -/
theorem intVol_le_of_lowered (condition : Prop) [Decidable condition] (c : Channel) (n : Nat) :
    (if condition then { c with intVol := BitVec.ofNat 4 (c.intVol.toNat - n) } else c).intVol.toNat ≤ c.intVol.toNat := by
  split
  · exact (toNat_volume_sub _ _).trans_le (Nat.sub_le _ _)
  · exact le_rfl

/-- No envelope shape raises the volume (42_modulators.md R161 to R164). -/
theorem envelope_intVol_le (c : Channel) : (envelope c).intVol.toNat ≤ c.intVol.toNat := by
  unfold envelope
  split
  · split
    · exact intVol_le_of_lowered _ c 1
    · exact intVol_le_of_lowered _ c 2
    · exact intVol_le_of_lowered _ c 1
    · exact le_rfl
  · exact le_rfl

theorem step_prologue {s : State} (hphase : s.phase = .prologue) : step s = .next (prologueStep s) := by
  simp only [step, hphase]

/-- Settles O28: the envelope acts on `int_vol` alone and downwards, and the pitch on `fr_tune` alone. -/
theorem prologueModulatesTheChannel : Obligations.PrologueModulatesTheChannel := by
  refine ⟨fun s hphase => step_prologue hphase, fun c => ⟨modulate_framePos c, ?volume, ?others⟩⟩
  case volume =>
    rw [modulate_intVol]
    exact envelope_intVol_le (counted c)
  case others =>
    obtain ⟨v, w, hmod⟩ := modulate_frame c
    rw [hmod]

/-! ### The sounding sample (44_mixer_driver.md R203) -/

section
variable {c : Channel} (hsound : c.frValue ≠ 0#16) (cfg : Config) (masterVol : BitVec 4)
include hsound

theorem nextSampleOf_tone :
    nextSampleOf cfg masterVol c = (scale cfg c.intVol masterVol (wave cfg c).1, (wave cfg c).2) := if_neg hsound

theorem sampled_tone :
    sampled cfg masterVol c = { c with slicePos := sat32 (c.slicePos.toNat + 1), frCounter := (wave cfg c).2 } := by
  rw [sampled, nextSampleOf_tone hsound]

end

/-- Settles O41: a sounding channel contributes the scaled sample of the generator and takes its phase. -/
theorem toneSampleIsScaledWave : Obligations.ToneSampleIsScaledWave := by
  intro s hphase hidx hsound
  have hsound' : s.cur.frValue ≠ 0#16 := hsound
  refine ⟨_, step_sample hphase hidx, ?entry, fun ch a hother => readBuf_writeBuf_other _ _ hother, ?registers, ?place,
    rfl, rfl, rfl, rfl, rfl, rfl, rfl, rfl, rfl⟩
  case entry =>
    rw [nextSampleOf_tone hsound']
    exact readBuf_writeBuf_same _ _ _ _
  case registers =>
    rw [sampled_tone hsound']
    rfl
  case place =>
    simp only [sampled_tone hsound', placeAfterSampleStep, sat32_toNat]
    rfl

/-! ### The frame word (44_mixer_driver.md R204, R205) -/

/-- The mean of four 16-bit entries is a 16-bit number, so the mixer cuts nothing off. -/
theorem mixMean_range (s : State) (i : Nat) : -32768 ≤ asr (mixSum s i) 2 ∧ asr (mixSum s i) 2 ≤ 32767 := by
  obtain ⟨-, -, hsum⟩ := scalingStaysInSampleRange
  obtain ⟨hlow, hhigh⟩ := hsum s i
  exact ⟨le_asr _ _ _ hlow, asr_le _ _ _ hhigh⟩

theorem frameWord_left (m : Int) : (frameWord m).extractLsb' 16 16 = BitVec.ofInt 16 m :=
  BitVec.extractLsb'_append_eq_left

theorem frameWord_right (m : Int) : (frameWord m).extractLsb' 0 16 = BitVec.ofInt 16 m :=
  BitVec.extractLsb'_append_eq_right

/-- Settles O42: both halves hold the mean, which fits them. -/
theorem frameWordIsTheMeanTwice : Obligations.FrameWordIsTheMeanTwice := by
  intro s i
  obtain ⟨hlow, hhigh⟩ := mixMean_range s i
  constructor
  · rw [frameAt, frameWord_left, toInt_ofInt_half hlow hhigh]
    rfl
  · rw [frameAt, frameWord_right, toInt_ofInt_half hlow hhigh]
    rfl

end Sys2Proof.Machine
end

section
/-! PROOF. The sink's handshake and the whole mix: one query, a sink that stays busy, and the frames sent to a ready
one (44_mixer_driver.md R206 to R208). -/

namespace Sys2Proof.Machine

/-! ### Runs in a row -/

/-- The first step of a run that completes. -/
theorem runSteps_succ_cases {n : Nat} {s t : State} (h : runSteps (n + 1) s = .next t) :
    ∃ s', step s = .next s' ∧ runSteps n s' = .next t := by
  cases hstep : step s with
  | next s' => exact ⟨s', rfl, (runSteps_succ n hstep).symm.trans h⟩
  | fault r | refused r => simp [runSteps, Host.Core.run, core, hstep] at h

/-- A run goes on where a shorter one has stopped. -/
theorem runSteps_add {m : Nat} {s t : State} (n : Nat) (h : runSteps m s = .next t) : runSteps (m + n) s = runSteps n t := by
  induction m generalizing s with
  | zero =>
    obtain rfl : s = t := Host.Outcome.next.inj h
    rw [Nat.zero_add]
  | succ m ih =>
    obtain ⟨s', hstep, hrest⟩ := runSteps_succ_cases h
    rw [Nat.succ_add, runSteps_succ _ hstep, ih hrest]

/-! ### One query (44_mixer_driver.md R207) -/

/-- The two bits of the mask are bits 3 and 2 of the status word. -/
theorem busy_eq_testBit (status : Nat) : busy status = (status.testBit 3 || status.testBit 2) := by
  have hmask : status &&& busyMask = (status.testBit 3).toNat * 2 ^ 3 ||| (status.testBit 2).toNat * 2 ^ 2 := by
    rw [← Nat.and_two_pow, ← Nat.and_two_pow, ← Nat.and_or_distrib_left]
    rfl
  rw [busy, hmask]
  cases status.testBit 3 <;> cases status.testBit 2 <;> rfl

section
variable {s : State} (hphase : s.phase = .mix) (hidx : s.idx < 1200)
include hphase hidx

theorem step_mix_unanswered (hsink : s.sinkStatus = []) : step s = .next s := by
  simp only [step, hphase, mixStep, if_pos (show s.idx < bufMax from hidx), hsink]

variable {status : Nat} {later : List Nat} (hsink : s.sinkStatus = status :: later)
include hsink

theorem step_mix_busy (hbusy : busy status = true) : step s = .next { s with sinkStatus := later } := by
  simp only [step, hphase, mixStep, if_pos (show s.idx < bufMax from hidx), hsink, hbusy, if_true]

/-- A query that is answered ready sends the frame of the index; after the last index the tick is over. -/
theorem step_mix_ready (hready : busy status = false) :
    step s = .next (if s.idx + 1 < s.cfg.nTick then
      { s with sinkStatus := later, sent := s.sent ++ [frameAt s s.idx], idx := s.idx + 1 } else
      { s with sinkStatus := later, sent := s.sent ++ [frameAt s s.idx], phase := .idle, chan := .ch0, idx := 0 }) := by
  simp only [step, hphase, mixStep, if_pos (show s.idx < bufMax from hidx), hsink, hready, Bool.false_eq_true, if_false]
  rfl

end

/-- Settles O43: the mask decides by its two bits. -/
theorem pollWaitsWhileBusy : Obligations.PollWaitsWhileBusy := by
  intro s status later hphase hidx hsink
  constructor
  · intro hbits
    refine step_mix_busy hphase hidx hsink ?_
    rwa [busy_eq_testBit, Bool.or_eq_true]
  · intro hbits
    refine step_mix_ready hphase hidx hsink ?_
    rwa [busy_eq_testBit, Bool.or_eq_false_iff]

/-- Settles O45, by induction on the steps: each uses up one answer, or finds none left. -/
theorem sinkNeverReadyHangs : Obligations.SinkNeverReadyHangs := by
  intro s hphase hidx hbusy n
  induction n generalizing s with
  | zero => exact ⟨s.sinkStatus, rfl⟩
  | succ n ih =>
    cases hsink : s.sinkStatus with
    | nil =>
      rw [runSteps_succ n (step_mix_unanswered hphase hidx hsink)]
      exact ih s hphase hidx hbusy
    | cons status later =>
      rw [hsink] at hbusy
      obtain ⟨hnow, hlater⟩ := List.forall_mem_cons.1 hbusy
      rw [runSteps_succ n (step_mix_busy hphase hidx hsink hnow)]
      exact ih { s with sinkStatus := later } hphase hidx hlater

/-! ### The whole mix (44_mixer_driver.md R208) -/

/-- From index `idx` on, one frame is sent for each ready answer, and the last index ends the tick. -/
theorem mix_run_from {later : List Nat} (ready : List Nat) (s : State) (hphase : s.phase = .mix)
    (hleft : s.idx + ready.length = s.cfg.nTick) (hinside : s.idx < s.cfg.nTick) (htick : s.cfg.nTick ≤ 1200)
    (hsink : s.sinkStatus = ready ++ later) (hready : ∀ status ∈ ready, busy status = false) :
    runSteps ready.length s = .next { s with
      phase := .idle, chan := .ch0, idx := 0, sinkStatus := later
      sent := s.sent ++ (List.range' s.idx ready.length).map (frameAt s) } := by
  induction ready generalizing s with
  | nil =>
    rw [List.length_nil] at hleft
    omega
  | cons status rest ih =>
    obtain ⟨hnow, hrest⟩ := List.forall_mem_cons.1 hready
    have hsink' : s.sinkStatus = status :: (rest ++ later) := hsink
    have hstep := step_mix_ready hphase (hinside.trans_le htick) hsink' hnow
    rw [List.length_cons] at hleft ⊢
    rw [runSteps_succ _ hstep, List.range'_succ, List.map_cons]
    cases rest with
    | nil => rw [if_neg (by rw [List.length_nil] at hleft; omega)]; rfl
    | cons next rest =>
      have hmore : s.idx + 1 < s.cfg.nTick := by rw [List.length_cons] at hleft; omega
      rw [if_pos hmore, List.append_cons s.sent _ (List.map _ _)]
      exact ih { s with sinkStatus := next :: rest ++ later, sent := s.sent ++ [frameAt s s.idx], idx := s.idx + 1 }
        hphase (show s.idx + 1 + (next :: rest).length = s.cfg.nTick by omega) hmore htick rfl hrest

/-- Settles O44: the mix begins at index 0. -/
theorem mixSendsEveryFrameInOrder : Obligations.MixSendsEveryFrameInOrder := by
  intro s ready later hphase hstart hpos htick hsink hlength hready
  have hrun := mix_run_from ready s hphase (by omega) (by omega) htick hsink hready
  rwa [hlength, hstart, ← List.range_eq_range'] at hrun

end Sys2Proof.Machine
end

section
/-! PROOF. The start of a tick, and the ticks that the skip counter passes over (44_mixer_driver.md R200, R201, R209). -/

namespace Sys2Proof.Machine

section
variable {s : State} {later : List Transaction} (hphase : s.phase = .idle) (hlegal : configLegal s.cfg = true)
  (hqueue : s.hostQueue = .tick :: later)
include hphase hlegal hqueue

theorem step_tick : step s = .next (beginTick { s with hostQueue := later }) := by
  simp only [step, hphase, hostStep, hqueue, hlegal, if_true, transact]

theorem step_tick_skipped (hskip : 0 < s.skipCounter.toNat) :
    step s = .next { s with
      hostQueue := later, wtReady := true, skipCounter := BitVec.ofNat 32 (s.skipCounter.toNat - 1) } := by
  rw [step_tick hphase hlegal hqueue, beginTick, if_pos hskip]

theorem step_tick_started (hskip : s.skipCounter = 0#32) :
    step s = .next { s with hostQueue := later, wtReady := true, phase := .prologue, chan := .ch0, idx := 0 } := by
  rw [step_tick hphase hlegal hqueue, beginTick, if_neg (by simp only [hskip]; decide)]

end

/-- A smaller count fits the register. -/
theorem toNat_counter_sub (v : Word) (n : Nat) : (BitVec.ofNat 32 (v.toNat - n)).toNat = v.toNat - n := by
  have hwidth := v.isLt
  rw [BitVec.toNat_ofNat]
  omega

/-- A positive counter is decremented in its own arithmetic. -/
theorem counter_sub_one {v : Word} (hpos : 0 < v.toNat) : v - 1#32 = BitVec.ofNat 32 (v.toNat - 1) := by
  refine BitVec.eq_of_toNat_eq ?_
  rw [toNat_counter_sub, BitVec.toNat_sub_of_le hpos]
  rfl

/-- Settles O46: the two cases of the skip counter. -/
theorem tickStartsOrIsSkipped : Obligations.TickStartsOrIsSkipped := by
  intro s later hphase hlegal hqueue
  refine ⟨fun hskip => ?_, step_tick_started hphase hlegal hqueue⟩
  rw [counter_sub_one hskip]
  exact step_tick_skipped hphase hlegal hqueue hskip

/-- A row of skipped ticks, each of which takes one off the counter. -/
theorem skipped_ticks_run {later : List Transaction} (n : Nat) (s : State) (hphase : s.phase = .idle)
    (hlegal : configLegal s.cfg = true) (hqueue : s.hostQueue = List.replicate (n + 1) .tick ++ later)
    (hskip : n + 1 ≤ s.skipCounter.toNat) :
    runSteps (n + 1) s = .next { s with
      hostQueue := later, wtReady := true, skipCounter := BitVec.ofNat 32 (s.skipCounter.toNat - (n + 1)) } := by
  induction n generalizing s with
  | zero => exact runSteps_succ 0 (step_tick_skipped hphase hlegal hqueue hskip)
  | succ n ih =>
    have hqueue' : s.hostQueue = .tick :: (List.replicate (n + 1) .tick ++ later) := hqueue
    have hstep := step_tick_skipped hphase hlegal hqueue' (by omega)
    rw [runSteps_succ _ hstep, ih _ (by exact hphase) (by exact hlegal) rfl]
    · rw [toNat_counter_sub, Nat.sub_sub, Nat.add_comm 1]
    · rw [toNat_counter_sub]
      omega

/-- Settles O47: the row of skipped ticks, and the tick after it at the counter 0. -/
theorem skippedTicksOnlyCountDown : Obligations.SkippedTicksOnlyCountDown := by
  intro s n later hphase hlegal hpos hqueue hskip
  obtain ⟨k, rfl⟩ := Nat.exists_eq_add_of_le' hpos
  have hrun := skipped_ticks_run k s hphase hlegal hqueue hskip
  refine ⟨hrun, fun rest hlater hexact => ?_⟩
  rw [hexact, Nat.sub_self] at hrun
  rw [runSteps_add 1 hrun]
  exact runSteps_succ 0 (step_tick_started (later := rest) hphase hlegal hlater rfl)

end Sys2Proof.Machine
end

section
/-! PROOF. A whole tick with a ready sink: each channel's samples, with the parser runs inside them, then the next
channel, then the mix (44_mixer_driver.md R200, R203, R208, 70_reset_and_hazards.md R276). -/

namespace Sys2Proof.Machine

/-! ### What the voices' part of a tick leaves alone -/

/-- From `s` to `t` nothing that the host owns or that belongs to no channel has changed. -/
structure GlobalsKept (s t : State) : Prop where
  cfg : t.cfg = s.cfg
  mml : t.mml = s.mml
  skipCounter : t.skipCounter = s.skipCounter
  masterVol : t.masterVol = s.masterVol
  wtReady : t.wtReady = s.wtReady
  hostQueue : t.hostQueue = s.hostQueue
  replies : t.replies = s.replies

section
variable {s t u : State}

theorem GlobalsKept.refl (s : State) : GlobalsKept s s := ⟨rfl, rfl, rfl, rfl, rfl, rfl, rfl⟩

theorem GlobalsKept.trans (h : GlobalsKept s t) (h' : GlobalsKept t u) : GlobalsKept s u :=
  ⟨h'.cfg.trans h.cfg, h'.mml.trans h.mml, h'.skipCounter.trans h.skipCounter, h'.masterVol.trans h.masterVol,
    h'.wtReady.trans h.wtReady, h'.hostQueue.trans h.hostQueue, h'.replies.trans h.replies⟩

theorem globalsKept_setCur (s : State) (c : Channel) : GlobalsKept s (s.setCur c) := ⟨rfl, rfl, rfl, rfl, rfl, rfl, rfl⟩

theorem globalsKept_writeBuf (s : State) (ch : ChannelId) (i : Nat) (v : Half) : GlobalsKept s (s.writeBuf ch i v) :=
  ⟨rfl, rfl, rfl, rfl, rfl, rfl, rfl⟩

theorem globalsKept_nextSample (s : State) : GlobalsKept s s.nextSample := by constructor <;> simp

theorem globalsKept_nextFrame (s : State) : GlobalsKept s s.nextFrame := by constructor <;> simp

/-- Inside a tick a step reads the globals and the program memories, and writes none of them. -/
theorem step_globalsKept (hidle : s.phase ≠ .idle) (h : step s = .next t) : GlobalsKept s t := by
  rcases step_cases h with ⟨hp, -⟩ | ⟨-, rfl⟩ | ⟨-, hs⟩ | ⟨-, hs⟩ | ⟨-, hs⟩
  · exact absurd hp hidle
  · exact { globalsKept_setCur s (modulate s.cur) with }
  · obtain ⟨-, v, rfl⟩ := sampleStep_cases hs
    have hfilled := (globalsKept_setCur s (sampled s.cfg s.masterVol s.cur)).trans (globalsKept_writeBuf _ s.chan s.idx v)
    dsimp only
    split
    · exact { hfilled with }
    · exact hfilled.trans (globalsKept_nextSample _)
  · obtain ⟨-, hexec⟩ := parseStep_cases hs
    obtain ⟨c, hcommand | hnote⟩ := exec_cases (decode s.textAhead).1 s
    · obtain rfl : s.setCur c = t := Host.Outcome.next.inj (hcommand.symm.trans hexec)
      exact globalsKept_setCur s c
    · obtain rfl : (s.setCur c).nextSample = t := Host.Outcome.next.inj (hnote.symm.trans hexec)
      exact (globalsKept_setCur s c).trans (globalsKept_nextSample _)
  · obtain ⟨-, ⟨-, rfl⟩ | ⟨status, later, -, ⟨-, rfl⟩ | ⟨-, rfl⟩⟩⟩ := mixStep_cases hs
    · exact GlobalsKept.refl _
    · exact { GlobalsKept.refl s with }
    · refine GlobalsKept.trans ?_ (globalsKept_nextFrame _)
      exact { GlobalsKept.refl s with }

/-! ### Runs of the voices -/

theorem Inv.runSteps {n : Nat} (h : Inv s) (hrun : runSteps n s = .next t) : Inv t := by
  induction n generalizing s with
  | zero =>
    obtain rfl : s = t := Host.Outcome.next.inj hrun
    exact h
  | succ n ih =>
    obtain ⟨s', hstep, hrest⟩ := runSteps_succ_cases hrun
    exact ih (stepKeepsTheInvariant s s' h hstep) hrest

/-- Some number of steps lead from `s` to `t`, with no query of the sink and no transaction among them. -/
structure VoiceRun (s t : State) : Prop where
  run : ∃ n, runSteps n s = .next t
  globals : GlobalsKept s t
  sent : t.sent = s.sent
  sinkStatus : t.sinkStatus = s.sinkStatus

theorem VoiceRun.trans (h : VoiceRun s t) (h' : VoiceRun t u) : VoiceRun s u := by
  obtain ⟨m, hm⟩ := h.run
  obtain ⟨n, hn⟩ := h'.run
  exact ⟨⟨m + n, (runSteps_add n hm).trans hn⟩, h.globals.trans h'.globals, h'.sent.trans h.sent,
    h'.sinkStatus.trans h.sinkStatus⟩

theorem VoiceRun.of_step (hidle : s.phase ≠ .idle) (hmix : s.phase ≠ .mix) (h : step s = .next t) : VoiceRun s t := by
  have hown := step_ownChannelOnly hidle hmix h
  exact ⟨⟨1, runSteps_succ 0 h⟩, step_globalsKept hidle h, hown.sent, hown.sinkStatus⟩

/-- What a tick needs to reach its mix: the invariant, and a note or a rest in every text (70_reset_and_hazards.md
R276). -/
structure Performable (s : State) : Prop where
  inv : Inv s
  playable : ∀ ch, Playable (s.mml.get ch)

theorem VoiceRun.performable (h : VoiceRun s t) (hs : Performable s) : Performable t := by
  obtain ⟨n, hrun⟩ := h.run
  exact ⟨hs.inv.runSteps hrun, h.globals.mml ▸ hs.playable⟩

/-! ### One sample step, with its parser run -/

/-- Where the engine stands: the loop variables of 44_mixer_driver.md R200. -/
def enginePlace (s : State) : Phase × ChannelId × Nat := (s.phase, s.chan, s.idx)

theorem enginePlace_eq_iff {phase : Phase} {ch : ChannelId} {i : Nat} :
    enginePlace s = (phase, ch, i) ↔ s.phase = phase ∧ s.chan = ch ∧ s.idx = i := by
  simp only [enginePlace, Prod.mk.injEq]

theorem enginePlace_nextSample (s : State) : enginePlace s.nextSample = placeAfterSample s.cfg.nTick s.chan s.idx := by
  rw [nextSample_eq_place]
  rfl

/-- A parser run that is over has ended the sample step it was part of. -/
theorem voiceRun_of_parse_ended {n : Nat} (hparse : s.phase = .parse) (hrun : runSteps n s = .next u)
    (hended : u.phase ≠ .parse) : ∃ t, VoiceRun s t ∧ enginePlace t = placeAfterSample s.cfg.nTick s.chan s.idx := by
  induction n generalizing s with
  | zero =>
    obtain rfl : s = u := Host.Outcome.next.inj hrun
    exact absurd hparse hended
  | succ n ih =>
    obtain ⟨s', hstep, hrest⟩ := runSteps_succ_cases hrun
    have hvoice : VoiceRun s s' := VoiceRun.of_step (by simp [hparse]) (by simp [hparse]) hstep
    obtain ⟨hpos, hexec⟩ := parseStep_cases (by simpa only [step, hparse] using hstep)
    obtain ⟨c, hcommand | hnote⟩ := exec_cases (decode s.textAhead).1 s
    · obtain rfl : s.setCur c = s' := Host.Outcome.next.inj (hcommand.symm.trans hexec)
      obtain ⟨t, hmore, hplace⟩ := ih (s := s.setCur c) hparse hrest
      exact ⟨t, hvoice.trans hmore, hplace⟩
    · obtain rfl : (s.setCur c).nextSample = s' := Host.Outcome.next.inj (hnote.symm.trans hexec)
      exact ⟨_, hvoice, enginePlace_nextSample _⟩

/-- A parser run in a text with a note or a rest ends the sample step. -/
theorem voiceRun_parse (h : Performable s) (hparse : s.phase = .parse) :
    ∃ t, VoiceRun s t ∧ enginePlace t = placeAfterSample s.cfg.nTick s.chan s.idx := by
  obtain ⟨n, u, -, hrun, hended, -⟩ := textWithANoteEndsTheParse s h.inv hparse (h.playable s.chan)
  exact voiceRun_of_parse_ended hparse hrun hended

theorem Inv.idx_lt (h : Inv s) : s.idx < bufMax := h.idxInTick.trans_le (configLegal_nTick h.cfgLegal).2

/-- One whole sample step: the sample alone, or the sample and the parser run after it. -/
theorem voiceRun_sample (h : Performable s) (hsample : s.phase = .sample) :
    ∃ t, VoiceRun s t ∧ enginePlace t = placeAfterSample s.cfg.nTick s.chan s.idx := by
  have hstep := step_sample hsample h.inv.idx_lt
  have hvoice := VoiceRun.of_step (by simp [hsample]) (by simp [hsample]) hstep
  by_cases hlen : (sampled s.cfg s.masterVol s.cur).len.toNat ≤ (sampled s.cfg s.masterVol s.cur).slicePos.toNat
  · simp only [placeAfterSampleStep, if_pos hlen] at hvoice
    obtain ⟨t, hparse, hplace⟩ := voiceRun_parse (hvoice.performable h) rfl
    exact ⟨t, hvoice.trans hparse, hplace⟩
  · simp only [placeAfterSampleStep, if_neg hlen] at hvoice
    exact ⟨_, hvoice, rfl⟩

/-! ### A whole channel, and the four channels in a row -/

/-- Where a tick goes on after the last sample of channel `ch`. -/
def placeAfterChannel (ch : ChannelId) : Phase × ChannelId × Nat :=
  match nextChannel ch with
  | some next => (.prologue, next, 0)
  | none => (.mix, .ch0, 0)

theorem placeAfterSample_of_last {nTick i : Nat} (hlast : ¬ i + 1 < nTick) (ch : ChannelId) :
    placeAfterSample nTick ch i = placeAfterChannel ch := by
  unfold placeAfterSample
  rw [if_neg hlast]
  cases ch <;> rfl

theorem placeAfterSample_of_more {nTick i : Nat} (hmore : i + 1 < nTick) (ch : ChannelId) :
    placeAfterSample nTick ch i = (.sample, ch, i + 1) := by
  unfold placeAfterSample
  rw [if_pos hmore]

/-- The samples of a channel that are left, of which there are `left + 1`. -/
theorem voiceRun_samples (left : Nat) (s : State) (h : Performable s) (hsample : s.phase = .sample)
    (hleft : s.idx + 1 + left = s.cfg.nTick) : ∃ t, VoiceRun s t ∧ enginePlace t = placeAfterChannel s.chan := by
  induction left generalizing s with
  | zero =>
    obtain ⟨t, hvoice, hplace⟩ := voiceRun_sample h hsample
    exact ⟨t, hvoice, by rw [hplace, placeAfterSample_of_last (by omega)]⟩
  | succ left ih =>
    obtain ⟨t, hvoice, hplace⟩ := voiceRun_sample h hsample
    rw [placeAfterSample_of_more (by omega)] at hplace
    obtain ⟨hphase, hchan, hidx⟩ := enginePlace_eq_iff.1 hplace
    obtain ⟨u, hrest, hend⟩ := ih t (hvoice.performable h) hphase (by rw [hidx, hvoice.globals.cfg]; omega)
    exact ⟨u, hvoice.trans hrest, hchan ▸ hend⟩

/-- A channel's part of a tick: the prologue and every sample step. -/
theorem voiceRun_channel {ch : ChannelId} (h : Performable s) (hplace : enginePlace s = (.prologue, ch, 0)) :
    ∃ t, VoiceRun s t ∧ enginePlace t = placeAfterChannel ch := by
  obtain ⟨hphase, rfl, -⟩ := enginePlace_eq_iff.1 hplace
  have hvoice := VoiceRun.of_step (by simp [hphase]) (by simp [hphase]) (step_prologue hphase)
  have hpos := h.inv.nTick_pos
  obtain ⟨t, hsamples, hend⟩ := voiceRun_samples (s.cfg.nTick - 1) (prologueStep s) (hvoice.performable h) rfl
    (show 0 + 1 + (s.cfg.nTick - 1) = s.cfg.nTick by omega)
  exact ⟨t, hvoice.trans hsamples, hend⟩

/-- The voices' part of a tick leads from channel 0's prologue to the start of the mix. -/
theorem voiceRun_voices (h : Performable s) (hplace : enginePlace s = (.prologue, .ch0, 0)) :
    ∃ t, VoiceRun s t ∧ enginePlace t = (.mix, .ch0, 0) := by
  obtain ⟨s₁, h₁, hplace₁⟩ := voiceRun_channel h hplace
  obtain ⟨s₂, h₂, hplace₂⟩ := voiceRun_channel (h₁.performable h) hplace₁
  have h₂' := h₁.trans h₂
  obtain ⟨s₃, h₃, hplace₃⟩ := voiceRun_channel (h₂'.performable h) hplace₂
  have h₃' := h₂'.trans h₃
  obtain ⟨s₄, h₄, hplace₄⟩ := voiceRun_channel (h₃'.performable h) hplace₃
  exact ⟨s₄, h₃'.trans h₄, hplace₄⟩

end

/-- Settles O58: the tick is started, the four channels run to the mix, and the mix sends its frames. -/
theorem tickCompletesWithReadySink : Obligations.TickCompletesWithReadySink := by
  intro s later ready more hinv hphase hqueue hskip hplay hsink hlength hready
  have hstart := step_tick_started hphase hinv.cfgLegal hqueue hskip
  obtain ⟨t, hvoices, hplace⟩ := voiceRun_voices ⟨stepKeepsTheInvariant _ _ hinv hstart, hplay⟩ rfl
  obtain ⟨hmix, -, hidx⟩ := enginePlace_eq_iff.1 hplace
  obtain ⟨n, hrun⟩ := hvoices.run
  have hcfg : t.cfg = s.cfg := hvoices.globals.cfg
  obtain ⟨-, hmml, hskip', hvol, hwt, hhost, -⟩ := hvoices.globals
  obtain ⟨hpos, htick⟩ := configLegal_nTick hinv.cfgLegal
  rw [← hcfg] at hpos htick hlength ⊢
  have hframes := mixSendsEveryFrameInOrder t ready more hmix hidx hpos htick (hvoices.sinkStatus.trans hsink) hlength hready
  have htotal := (runSteps_succ _ hstart).trans ((runSteps_add _ hrun).trans hframes)
  refine ⟨_, _, _, htotal, rfl, hhost, congrArg (· ++ _) hvoices.sent, ?_, rfl, hwt, hmml, hskip', hvol⟩
  rw [List.length_map, List.length_range]

end Sys2Proof.Machine
end

section
/-! PROOF. The host's transactions: what a load, a reset and the volume and skip transactions do, that only the
idle block takes one, and the legality of a configuration (45_host_interface.md R220 to R225, 20_memory.md R61,
93_implementation_defined.md U11, U12). -/

namespace Sys2Proof.Machine

/-! ### A program memory after a whole-text write (20_memory.md R61) -/

theorem read_load (text : List Byte) (a : Nat) : (Memory.load text).read a = (text.take mmlMax).getD a 0x00#8 := by
  rw [Memory.load, ← read_cellsFrom 0 a (text.take mmlMax), Nat.zero_add]

theorem read_load_of_lt (text : List Byte) {a : Nat} (ha : a < mmlMax) : (Memory.load text).read a = text.getD a 0x00#8 := by
  rw [read_load, List.getD_eq_getElem?_getD, List.getElem?_take_of_lt ha, ← List.getD_eq_getElem?_getD]

theorem read_load_of_ge (text : List Byte) {a : Nat} (ha : mmlMax ≤ a) : (Memory.load text).read a = 0x00#8 := by
  rw [read_load]
  exact List.getD_eq_default _ _ ((List.length_take_le _ _).trans ha)

theorem resetOf_mml (cfg : Config) (ch : ChannelId) :
    (State.resetOf cfg).mml.get ch = Memory.load (cfg.defaultMml.get ch) := by
  cases ch <;> rfl

/-! ### The block between transactions -/

section
variable {s : State}

theorem step_idle (hphase : s.phase = .idle) : step s = hostStep s := by
  simp only [step, hphase]

theorem step_unissued (hphase : s.phase = .idle) (hqueue : s.hostQueue = []) : step s = .next s := by
  simp only [step_idle hphase, hostStep, hqueue]

variable {tr : Transaction} {later : List Transaction}

theorem step_transact (hphase : s.phase = .idle) (hlegal : configLegal s.cfg = true) (hqueue : s.hostQueue = tr :: later) :
    step s = .next (transact tr { s with hostQueue := later }) := by
  simp only [step_idle hphase, hostStep, hqueue, hlegal, if_true]

theorem step_illegal (hphase : s.phase = .idle) (hillegal : configLegal s.cfg = false) (hqueue : s.hostQueue = tr :: later) :
    step s = .refused .illegalConfiguration := by
  simp only [step_idle hphase, hostStep, hqueue, hillegal, Bool.false_eq_true, if_false]

end

theorem beginTick_cfg (s : State) : (beginTick s).cfg = s.cfg := by
  unfold beginTick
  split <;> rfl

theorem transact_cfg (tr : Transaction) (s : State) : (transact tr s).cfg = s.cfg := by
  cases tr with
  | reset | loadMml | setVolume | getVolume | setSkip => rfl
  | tick => exact beginTick_cfg s

/-- The ROMs are parts of the configuration, which no step writes. -/
theorem step_cfg {s t : State} (h : step s = .next t) : t.cfg = s.cfg := by
  by_cases hidle : s.phase = .idle
  · rw [step_idle hidle] at h
    obtain ⟨-, rfl⟩ | ⟨tr, later, -, -, rfl⟩ := hostStep_cases h
    · rfl
    · exact transact_cfg tr _
  · exact (step_globalsKept hidle h).cfg

/-! ### The legality of a configuration, in the spec's own words -/

/-- Case folding takes an opcode byte of a note or a rest to its upper-case letter (30_encoding.md R91, R97). -/
theorem isPlayableByte_iff (byte : Byte) : isPlayableByte byte = true
    ↔ byte &&& 0xDF#8 ∈ [0x41#8, 0x42#8, 0x43#8, 0x44#8, 0x45#8, 0x46#8, 0x47#8, 0x52#8] := by
  have hall := forall_byte (fun b => isPlayableByte b
    == decide (b &&& 0xDF#8 ∈ [0x41#8, 0x42#8, 0x43#8, 0x44#8, 0x45#8, 0x46#8, 0x47#8, 0x52#8])) (by decide +kernel) byte
  rw [beq_iff_eq.1 hall, decide_eq_true_eq]

/-- The bytes before the first 0x00 hold a playable one exactly where a part without 0x00 leads up to it. -/
theorem hasPlayable_iff (text : List Byte) : hasPlayable text = true
    ↔ ∃ before byte later, text = before ++ byte :: later ∧ 0x00#8 ∉ before ∧ isPlayableByte byte = true := by
  rw [hasPlayable, List.any_eq_true]
  constructor
  · rintro ⟨byte, hmem, hplay⟩
    obtain ⟨before, later, hsplit⟩ := List.append_of_mem hmem
    refine ⟨before, byte, later ++ text.dropWhile (· != 0x00#8), ?_, fun hzero => ?_, hplay⟩
    · calc text = text.takeWhile (· != 0x00#8) ++ text.dropWhile (· != 0x00#8) := List.takeWhile_append_dropWhile.symm
        _ = before ++ byte :: (later ++ text.dropWhile (· != 0x00#8)) := by rw [hsplit, List.append_assoc, List.cons_append]
    · have hzero' : 0x00#8 ∈ text.takeWhile (· != 0x00#8) := hsplit ▸ List.mem_append_left _ hzero
      exact absurd (List.mem_takeWhile_imp hzero') (by decide)
  · rintro ⟨before, byte, later, rfl, hbefore, hplay⟩
    have hne : byte ≠ 0x00#8 := by
      rintro rfl
      exact Bool.false_ne_true (zero_not_playable.symm.trans hplay)
    refine ⟨byte, ?_, hplay⟩
    rw [List.takeWhile_append_of_pos (fun b hb => bne_iff_ne.2 (ne_of_mem_of_not_mem hb hbefore)),
      List.takeWhile_cons, if_pos (bne_iff_ne.2 hne)]
    exact List.mem_append_right _ List.mem_cons_self

theorem textLegal_iff (text : List Byte) : textLegal text = true ↔ LegalText text := by
  rw [textLegal, Bool.and_eq_true, decide_eq_true_eq, hasPlayable_iff]
  simp only [isPlayableByte_iff]
  rfl

/-- To compare neighbours is to compare every two entries, as the order is transitive. -/
theorem nonDecreasing_iff_pairwise (curve : List (BitVec 9)) :
    nonDecreasing curve = true ↔ curve.Pairwise (fun v w => v.toNat ≤ w.toNat) := by
  induction curve with
  | nil => exact iff_of_true rfl .nil
  | cons v rest ih =>
    cases rest with
    | nil => exact iff_of_true rfl (List.pairwise_singleton _ _)
    | cons w rest =>
      rw [nonDecreasing, Bool.and_eq_true, decide_eq_true_eq, ih, List.pairwise_cons (a := v)]
      refine and_congr_left fun hrest => ?_
      have hle := (List.pairwise_cons.1 hrest).1
      constructor
      · exact fun hvw => List.forall_mem_cons.2 ⟨hvw, fun x hx => hvw.trans (hle x hx)⟩
      · exact fun h => h w List.mem_cons_self

theorem forall_channel {p : ChannelId → Prop} : (∀ ch, p ch) ↔ p .ch0 ∧ p .ch1 ∧ p .ch2 ∧ p .ch3 := by
  refine ⟨fun h => ⟨h _, h _, h _, h _⟩, fun ⟨h0, h1, h2, h3⟩ ch => ?_⟩
  cases ch with
  | ch0 => exact h0
  | ch1 => exact h1
  | ch2 => exact h2
  | ch3 => exact h3

/-- The checks that a configuration is legal are the clauses the spec states, each in its own terms. -/
theorem configLegal_iff (cfg : Config) : configLegal cfg = true ↔ LegalConfig cfg := by
  have hperiods : (∀ v ∈ cfg.notePeriod, v ≠ sentinelNoTone) ↔ 0#16 ∉ cfg.notePeriod :=
    ⟨fun h hmem => h _ hmem rfl, fun h _ hmem => ne_of_mem_of_not_mem hmem h⟩
  simp only [configLegal, Bool.and_eq_true, decide_eq_true_eq, List.all_eq_true, bne_iff_ne, hperiods,
    nonDecreasing_iff_pairwise, textLegal_iff]
  constructor
  · rintro ⟨⟨⟨⟨⟨⟨⟨⟨⟨⟨⟨⟨⟨hlow, hhigh⟩, hcount⟩, hperiod⟩, hsteps⟩, hstart⟩, hmono⟩, hgain⟩, htables⟩, hsize⟩, h0⟩, h1⟩, h2⟩, h3⟩
    exact ⟨⟨hlow, hhigh⟩, ⟨hcount, hperiod⟩, ⟨hsteps, hstart, hmono, hgain⟩, ⟨htables, hsize⟩,
      forall_channel.2 ⟨h0, h1, h2, h3⟩⟩
  · rintro ⟨⟨hlow, hhigh⟩, ⟨hcount, hperiod⟩, ⟨hsteps, hstart, hmono, hgain⟩, ⟨htables, hsize⟩, htexts⟩
    obtain ⟨h0, h1, h2, h3⟩ := forall_channel.1 htexts
    exact ⟨⟨⟨⟨⟨⟨⟨⟨⟨⟨⟨⟨⟨hlow, hhigh⟩, hcount⟩, hperiod⟩, hsteps⟩, hstart⟩, hmono⟩, hgain⟩, htables⟩, hsize⟩, h0⟩, h1⟩, h2⟩, h3⟩

/-! ### The four statements -/

/-- Settles O48: the registers are the reset record's, and each program memory reads as its default text. -/
theorem resetTransactionRestores : Obligations.ResetTransactionRestores := by
  intro s later hphase hlegal hqueue
  refine ⟨_, step_transact hphase hlegal hqueue, fun ch => get_fill _ ch, fun ch a ha => ?_,
    rfl, rfl, rfl, rfl, rfl, rfl, rfl, rfl, rfl⟩
  calc State.readMml _ ch a = (Memory.load (s.cfg.defaultMml.get ch)).read a := congrArg (Memory.read · a) (resetOf_mml s.cfg ch)
    _ = (s.cfg.defaultMml.get ch).getD a 0x00#8 := read_load_of_lt _ ha

/-- Settles O49: the channel's memory is the loaded text, and the two writes leave the other channels' parts. -/
theorem loadMmlStoresAndResetsOneChannel : Obligations.LoadMmlStoresAndResetsOneChannel := by
  intro s later ch text hphase hlegal hqueue
  have hloaded (a : Nat) : State.readMml (transactLoad ch text { s with hostQueue := later }) ch a = (Memory.load text).read a :=
    congrArg (Memory.read · a) (get_set_same s.mml ch _)
  refine ⟨_, step_transact hphase hlegal hqueue, fun a ha => (hloaded a).trans (read_load_of_lt text ha),
    fun a ha => (hloaded a).trans (read_load_of_ge text ha), get_set_same s.channels ch _, fun other hother => ⟨?_, fun a => ?_⟩,
    fun _ _ => rfl, hphase, rfl, rfl, rfl, rfl, rfl, rfl, rfl, rfl⟩
  · exact get_set_other s.channels _ hother
  · exact congrArg (Memory.read · a) (get_set_other s.mml _ hother)

/-- Settles O50: each is the transaction's own definition, taken from the queue. -/
theorem volumeAndSkipTransactions : Obligations.VolumeAndSkipTransactions :=
  ⟨fun _ _ _ hphase hlegal hqueue => step_transact hphase hlegal hqueue,
    fun _ _ hphase hlegal hqueue => step_transact hphase hlegal hqueue,
    fun _ _ _ hphase hlegal hqueue => step_transact hphase hlegal hqueue⟩

/-- Settles O51: the frame of a step inside a tick, the idle step, and the legality of a configuration. -/
theorem onlyTheIdleBlockTakesTransactions : Obligations.OnlyTheIdleBlockTakesTransactions := by
  refine ⟨fun s t hidle h => ?_, fun _ => step_unissued, fun _ _ => step_cfg, configLegal_iff,
    fun _ _ _ hphase hillegal hqueue => step_illegal hphase hillegal hqueue⟩
  obtain ⟨hcfg, hmml, hskip, hvol, hready, hhost, hreplies⟩ := step_globalsKept hidle h
  exact ⟨hhost, hmml, hskip, hvol, hready, hcfg, hreplies⟩

end Sys2Proof.Machine
end

section
/-! PROOF. What one token leaves alone, that a step under the invariant always completes, and that a channel's part
of a tick is a function of its own registers and memories and the read-only parts (60_exceptions.md R240, R250, R253). -/

namespace Sys2Proof.Machine

/-! ### The frame of one token (60_exceptions.md R250) -/

/-- A token completes, and neither the globals nor the memories nor the other channels show it. -/
theorem exec_frame (i : Instr) (s : State) :
    ∃ t, exec i s = .next t ∧ GlobalsKept s t ∧ OwnChannelOnly s t ∧ t.buf = s.buf := by
  obtain ⟨c, hcommand | hnote⟩ := exec_cases i s
  · exact ⟨_, hcommand, globalsKept_setCur s c, ownChannelOnly_setCur s c, rfl⟩
  · exact ⟨_, hnote, (globalsKept_setCur s c).trans (globalsKept_nextSample _), (ownChannelOnly_setCur s c).nextSample,
      nextSample_buf _⟩

/-- Settles O27: the frame of a token, read entry by entry. -/
theorem tokensTouchOnlyTheirOwnRegisters : Obligations.TokensTouchOnlyTheirOwnRegisters := by
  intro i s
  obtain ⟨t, hexec, hglobals, hown, hbuf⟩ := exec_frame i s
  refine ⟨t, hexec, hglobals.cfg, fun ch a => ?mml, fun ch a => ?buf, fun ch hch => hown.channels_other hch,
    hglobals.skipCounter, hglobals.masterVol, hglobals.wtReady, hglobals.hostQueue, hown.sinkStatus, hown.sent,
    hglobals.replies⟩
  case mml => rw [State.readMml, hglobals.mml, State.readMml]
  case buf => rw [State.readBuf, hbuf, State.readBuf]

/-! ### Progress, by where the engine stands (60_exceptions.md R240) -/

section
variable {s : State}

/-- Between transactions a legal configuration refuses none. -/
theorem step_completes_idle (hlegal : configLegal s.cfg = true) (hphase : s.phase = .idle) : ∃ t, step s = .next t := by
  cases hqueue : s.hostQueue with
  | nil => exact ⟨_, step_unissued hphase hqueue⟩
  | cons tr later => exact ⟨_, step_transact hphase hlegal hqueue⟩

/-- Inside the parser `Fetch` is defined up to index 512, and every token has a meaning. -/
theorem step_completes_parse (hpos : s.cur.mmlPos.toNat ≤ mmlMax) (hphase : s.phase = .parse) : ∃ t, step s = .next t := by
  rw [step_parse hphase hpos]
  obtain ⟨t, hexec, -⟩ := exec_frame (decode s.textAhead).1 s
  exact ⟨t, hexec⟩

/-- At the sink a query completes whatever the answer, and without one. -/
theorem step_completes_mix (hidx : s.idx < bufMax) (hphase : s.phase = .mix) : ∃ t, step s = .next t := by
  cases hsink : s.sinkStatus with
  | nil => exact ⟨_, step_mix_unanswered hphase hidx hsink⟩
  | cons status later =>
    cases hbusy : busy status with
    | true => exact ⟨_, step_mix_busy hphase hidx hsink hbusy⟩
    | false => exact ⟨_, step_mix_ready hphase hidx hsink hbusy⟩

end

/-- Settles O55: the invariant bounds the two indices that could fault, and its configuration is legal. -/
theorem noFaultUnderTheInvariant : Obligations.NoFaultUnderTheInvariant := by
  intro s h
  cases hphase : s.phase with
  | idle => exact step_completes_idle h.cfgLegal hphase
  | prologue => exact ⟨_, step_prologue hphase⟩
  | sample => exact ⟨_, step_sample hphase h.idx_lt⟩
  | parse => exact step_completes_parse h.pos_le hphase
  | mix => exact step_completes_mix h.idx_lt hphase

/-! ### Two states that agree on one channel (60_exceptions.md R253) -/

/-- The two states stand at the same place of their ticks and agree on everything that channel `ch` reads. -/
structure VoiceAgree (ch : ChannelId) (s s' : State) : Prop where
  phase : s.phase = s'.phase
  chan : s.chan = s'.chan
  idx : s.idx = s'.idx
  cfg : s.cfg = s'.cfg
  masterVol : s.masterVol = s'.masterVol
  regs : s.channels.get ch = s'.channels.get ch
  mml : s.mml.get ch = s'.mml.get ch
  buf : s.buf.get ch = s'.buf.get ch

section
variable {ch : ChannelId} {s s' t : State}

theorem voiceAgree_iff : VoiceAgree ch s s' ↔ SamePlace s s' ∧ SameVoice ch s s' :=
  ⟨fun h => ⟨⟨h.phase, h.chan, h.idx⟩, h.cfg, h.masterVol, h.regs, h.mml, h.buf⟩,
    fun ⟨⟨hphase, hchan, hidx⟩, hcfg, hvol, hregs, hmml, hbuf⟩ => ⟨hphase, hchan, hidx, hcfg, hvol, hregs, hmml, hbuf⟩⟩

theorem VoiceAgree.cur (h : VoiceAgree s.chan s s') : s.cur = s'.cur := by
  rw [State.cur, h.regs, h.chan, State.cur]

/-- The parser sees the same text in both states. -/
theorem VoiceAgree.textAhead (h : VoiceAgree s.chan s s') : s.textAhead = s'.textAhead := by
  rw [State.textAhead, h.cur, h.mml, h.chan, State.textAhead]

theorem VoiceAgree.setCur (h : VoiceAgree s.chan s s') (c : Channel) : VoiceAgree s.chan (s.setCur c) (s'.setCur c) :=
  { h with regs := by rw [setCur_channels, setCur_channels, ← h.chan, get_set_same, get_set_same] }

theorem VoiceAgree.writeBuf (h : VoiceAgree ch s s') (i : Nat) (v : Half) :
    VoiceAgree ch (s.writeBuf ch i v) (s'.writeBuf ch i v) :=
  { h with buf := by rw [writeBuf_buf, writeBuf_buf, get_set_same, get_set_same, h.buf] }

/-- The engine may be moved to one place in both states. -/
theorem VoiceAgree.moveTo (h : VoiceAgree ch s s') (place : Phase × ChannelId × Nat) :
    VoiceAgree ch { s with phase := place.1, chan := place.2.1, idx := place.2.2 }
      { s' with phase := place.1, chan := place.2.1, idx := place.2.2 } :=
  { h with phase := rfl, chan := rfl, idx := rfl }

theorem VoiceAgree.placeAfterSample (h : VoiceAgree ch s s') :
    placeAfterSample s'.cfg.nTick s'.chan s'.idx = placeAfterSample s.cfg.nTick s.chan s.idx := by
  rw [h.cfg, h.chan, h.idx]

theorem VoiceAgree.placeAfterSampleStep (h : VoiceAgree ch s s') (c : Channel) :
    placeAfterSampleStep s' c = placeAfterSampleStep s c := by
  rw [Machine.placeAfterSampleStep, Machine.placeAfterSampleStep, h.placeAfterSample, h.chan, h.idx]

theorem VoiceAgree.nextSample (h : VoiceAgree ch s s') : VoiceAgree ch s.nextSample s'.nextSample := by
  rw [nextSample_eq_place s, nextSample_eq_place s', h.placeAfterSample]
  exact h.moveTo _

/-- A token writes the same registers wherever the configuration and the channel's registers are the same: it reads
nothing else. -/
theorem exec_reads_own_registers (i : Instr) (hcfg : s.cfg = s'.cfg) (hcur : s.cur = s'.cur) :
    ∃ c, exec i s = .next (if endsParse i then (s.setCur c).nextSample else s.setCur c)
      ∧ exec i s' = .next (if endsParse i then (s'.setCur c).nextSample else s'.setCur c) := by
  cases i with
  | c | d | e | f | g | a | b => exact ⟨_, rfl, by rw [hcfg, hcur]; rfl⟩
  | _ => exact ⟨_, rfl, by rw [hcur]; rfl⟩

theorem exec_voiceAgree (h : VoiceAgree s.chan s s') (i : Instr) (hexec : exec i s = .next t) :
    ∃ t', exec i s' = .next t' ∧ VoiceAgree s.chan t t' := by
  obtain ⟨c, hs, hs'⟩ := exec_reads_own_registers i h.cfg h.cur
  refine ⟨_, hs', ?_⟩
  obtain rfl := Host.Outcome.next.inj (hs.symm.trans hexec)
  split
  · exact (h.setCur c).nextSample
  · exact h.setCur c

theorem prologueStep_voiceAgree (h : VoiceAgree s.chan s s') : VoiceAgree s.chan (prologueStep s) (prologueStep s') := by
  rw [prologueStep, prologueStep, ← h.cur]
  exact { h.setCur (modulate s.cur) with phase := rfl, idx := rfl }

/-- The sample a channel writes, its registers after it and the engine's next place, from what the channel reads. -/
theorem step_sample_voiceAgree (h : VoiceAgree s.chan s s') (hphase : s.phase = .sample) (hidx : s.idx < bufMax)
    (hstep : step s = .next t) : ∃ t', step s' = .next t' ∧ VoiceAgree s.chan t t' := by
  refine ⟨_, step_sample (h.phase ▸ hphase) (h.idx ▸ hidx), ?_⟩
  obtain rfl := Host.Outcome.next.inj ((step_sample hphase hidx).symm.trans hstep)
  rw [h.placeAfterSampleStep, ← h.cfg, ← h.masterVol, ← h.cur, ← h.chan, ← h.idx]
  exact ((h.setCur _).writeBuf _ _).moveTo _

/-- One step of a channel's part of a tick, taken from both states. -/
theorem step_voiceAgree (h : VoiceAgree s.chan s s') (hidle : s.phase ≠ .idle) (hmix : s.phase ≠ .mix)
    (hstep : step s = .next t) : ∃ t', step s' = .next t' ∧ VoiceAgree s.chan t t' := by
  rcases step_cases hstep with ⟨hp, -⟩ | ⟨hp, rfl⟩ | ⟨hp, hs⟩ | ⟨hp, hs⟩ | ⟨hp, -⟩
  · exact absurd hp hidle
  · exact ⟨_, step_prologue (h.phase ▸ hp), prologueStep_voiceAgree h⟩
  · obtain ⟨hidx, -⟩ := sampleStep_cases hs
    exact step_sample_voiceAgree h hp hidx hstep
  · obtain ⟨hpos, hexec⟩ := parseStep_cases hs
    rw [step_parse (h.phase ▸ hp) (h.cur ▸ hpos), ← h.textAhead]
    exact exec_voiceAgree h _ hexec
  · exact absurd hp hmix

end

/-- Settles O59: the prologue, the sample step and the parser's token, each from what the channel reads. -/
theorem channelsDoNotInterfere : Obligations.ChannelsDoNotInterfere := by
  intro s s' t hplace hvoice hidle hmix hstep
  obtain ⟨t', hstep', hagree⟩ := step_voiceAgree (voiceAgree_iff.2 ⟨hplace, hvoice⟩) hidle hmix hstep
  exact ⟨t', hstep', voiceAgree_iff.1 hagree⟩

end Sys2Proof.Machine
end
